-- ==== Sys2Proof/Word.lean ====
section
/-! DEFINITION. The unsigned words of the KineIntra protocol block (spec/00_scope.md R8: a value
written `uN` is an unsigned integer of `N` bits, and every value in the block is unsigned). -/

namespace Sys2Proof

/-- A byte, `u8`. -/
abbrev U8 := BitVec 8

/-- A `u16`: the CRC, a frame length, a sample rate. -/
abbrev U16 := BitVec 16

/-- A `u32`: a counter, an active map, a timestamp, a sample. -/
abbrev U32 := BitVec 32

/-- One value for each of the 32 sensor channels, element `i` for sensor `i` (R5 `N_SENSORS`). -/
abbrev PerSensor (α : Type) := Vector α 32

end Sys2Proof
end

