-- ==== Sys2Proof/Machine/Bytes.lean ====
section
/-! DEFINITION. Byte sequences and the little-endian views of them (spec/00_scope.md R8, R9;
spec/20_memory.md R52, R54). -/

namespace Sys2Proof.Machine

/-- `le_bytes(w, v)` (R9): the `w` low bytes of `v`, least significant first. -/
def leBytes : Nat → Nat → List U8
  | 0, _ => []
  | w + 1, v => BitVec.ofNat 8 v :: leBytes w (v / 256)

/-- `from_le(s)` (R9): the unsigned value of a little-endian byte sequence. -/
def fromLe : List U8 → Nat
  | [] => 0
  | b :: s => b.toNat + 256 * fromLe s

/-- `le_16(v)` (R9). -/
def le16 (v : U16) : List U8 := leBytes 2 v.toNat

/-- `le_32(v)` (R9). -/
def le32 (v : U32) : List U8 := leBytes 4 v.toNat

/-- `s[a..b]` (R9): the bytes at indices `a` up to but not including `b`. -/
def slice (s : List U8) (a b : Nat) : List U8 := (s.drop a).take (b - a)

/-- The byte `s[i]` of a sequence long enough to have it. -/
def byteAt (s : List U8) (i : Nat) : U8 := s.getD i 0

/-- The u16 field at offset `o`: `from_le(s[o..o+2])` (R54). -/
def u16At (s : List U8) (o : Nat) : U16 := BitVec.ofNat 16 (fromLe (slice s o (o + 2)))

/-- The u32 field at offset `o`: `from_le(s[o..o+4])` (R54). -/
def u32At (s : List U8) (o : Nat) : U32 := BitVec.ofNat 32 (fromLe (slice s o (o + 4)))

/-- `mask(n)` (R8): `n` one bits. -/
def maskBits (n : Nat) : Nat := 2 ^ n - 1

/-- `ceil_div8(n)` (R8): the smallest number of bytes that hold `n` bits. -/
def ceilDiv8 (n : Nat) : Nat := (n + 7) >>> 3

end Sys2Proof.Machine
end

