-- ==== Sys2Proof/Config.lean ====
section
/-! DEFINITION. The implementation parameters of spec/00_scope.md R5 and the wire constants KI fixes.
Parameters are not state (spec/10_state.md R20): no operation changes them. -/

namespace Sys2Proof

/-- The parameters of R5 that some rule reads and that are not the same for every KI implementation.
The operations that depend on one take this record as an argument, so that a statement can hold for
every value. -/
structure Params where
  /-- `STALL_LIMIT`: RX_TICK operations without a byte, mid-frame, that abort the frame (R215). -/
  stallLimit : U32
  /-- `SOF2_RETEST`: re-test a byte that fails SOF2 as a new SOF1 (R202). -/
  sof2Retest : Bool
deriving DecidableEq, Repr

/-- R5: `STALL_LIMIT` is at least 1. -/
abbrev Params.legal (p : Params) : Prop := p.stallLimit ≠ 0

namespace Config

/-- `MAX_PAYLOAD` (R5): the longest payload of a frame. -/
abbrev maxPayload : Nat := 65535

/-- `N_SENSORS` (R5). -/
abbrev nSensors : Nat := 32

/-- `STATUS_LEN` (R5): the length of a Status payload. -/
abbrev statusLen : Nat := 144

/-- The Status payload without its two padding bytes (spec/30_encoding.md R75, R83 format `OF`). -/
abbrev statusFieldsLen : Nat := 142

/-- `PROTO_VERSION` (R4, R5). -/
abbrev protoVersion : U8 := 0x01

/-- `RX_BUF_CAP` (R5): the bytes of the payload buffer. -/
abbrev rxBufCap : Nat := 65535

/-- SOF1 (R13). -/
abbrev sof1 : U8 := 0xA5

/-- SOF2 (R13). -/
abbrev sof2 : U8 := 0x5A

/-- The initial value of the CRC (spec/40_crc.md R100). -/
abbrev crcInitial : U16 := 0xFFFF

/-- The generator polynomial of the CRC (spec/40_crc.md R100). -/
abbrev crcPolynomial : U16 := 0x1021

/-- `STALL_LIMIT` as the integrator gave it, before the bound of R5. OPEN in the spec, so it has no
body: no proof can see what it is. Log entry 3. -/
opaque openStallLimit : U32

/-- `STALL_LIMIT` of this block: OPEN, at least 1 (R5), and a u32 because register 0x0D shows it in
32 bits (spec/10_state.md R35). Every legal value is possible. DEDUCED, safe: log entry 3. -/
def stallLimit : U32 := if openStallLimit = 0 then 1 else openStallLimit

/-- This hardware (R5): `SOF2_RETEST` is false, `STALL_LIMIT` is OPEN. -/
def params : Params := ⟨stallLimit, false⟩

end Config

end Sys2Proof
end

