-- ==== Sys2Proof/Syntax.lean ====
section
/-! DEFINITION. The operations of the block: one constructor of `Instr` for each row of
spec/opcode_table.json, with the operands of spec/30_encoding.md R83 as its fields (R82: a model may
take requests as terms). -/

namespace Sys2Proof

/-- A Status record (spec/42_status.md): the fields of the 144-byte Status payload. `state`,
`sensorRoleMap` and `adcFlags` are raw (spec/00_scope.md R3). -/
structure StatusRecord where
  state : U8
  nSensors : U8
  activeMap : U32
  healthMap : U32
  sampRateMap : PerSensor U16
  bitsPerSmpMap : PerSensor U8
  sensorRoleMap : PerSensor U8
  adcFlags : U16
  reserved : U16
deriving DecidableEq, Repr

/-- An operation with its operands (spec/30_encoding.md R84). -/
inductive Instr where
  /-- `CRC_INIT` (R103). -/
  | crcInit
  /-- `CRC_UPDATE b` (R104). -/
  | crcUpdate (b : U8)
  /-- `TX_FRAME kind, s` (R121). -/
  | txFrame (kind : U8) (s : List U8)
  /-- `STATUS_PACK f` (R140). -/
  | statusPack (f : StatusRecord)
  /-- `STATUS_UNPACK s` (R141). -/
  | statusUnpack (s : List U8)
  /-- `LAYOUT_SET map, bits` (R162). -/
  | layoutSet (map : U32) (bits : PerSensor U8)
  /-- `LAYOUT_LOAD s` (R165). -/
  | layoutLoad (s : List U8)
  /-- `DATA_PACK ts, v` (R185). -/
  | dataPack (ts : U32) (v : PerSensor U32)
  /-- `DATA_UNPACK s` (R190). -/
  | dataUnpack (s : List U8)
  /-- `RX_BYTE b` (R212). -/
  | rxByte (b : U8)
  /-- `RX_TICK` (R215). -/
  | rxTick
  /-- `REG_READ r` (R240). -/
  | regRead (r : U8)
deriving DecidableEq, Repr

/-- The defined opcodes, without their operands (R84). -/
inductive Opcode where
  | crcInit | crcUpdate | txFrame | statusPack | statusUnpack | layoutSet
  | layoutLoad | dataPack | dataUnpack | rxByte | rxTick | regRead
deriving DecidableEq, Repr

/-- The request formats of R83. -/
inductive Format where
  /-- The opcode alone. -/
  | o
  /-- Opcode and one byte. -/
  | ob
  /-- Opcode, kind byte, counted bytes. -/
  | oks
  /-- Opcode and counted bytes. -/
  | os
  /-- Opcode and the first 142 bytes of a Status payload. -/
  | of
  /-- Opcode, map, 32 widths. -/
  | ol
  /-- Opcode, timestamp, 32 samples. -/
  | od
deriving DecidableEq, Repr

/-- The operation an instruction performs. -/
def Instr.opcode : Instr → Opcode
  | .crcInit => .crcInit
  | .crcUpdate _ => .crcUpdate
  | .txFrame _ _ => .txFrame
  | .statusPack _ => .statusPack
  | .statusUnpack _ => .statusUnpack
  | .layoutSet _ _ => .layoutSet
  | .layoutLoad _ => .layoutLoad
  | .dataPack _ _ => .dataPack
  | .dataUnpack _ => .dataUnpack
  | .rxByte _ => .rxByte
  | .rxTick => .rxTick
  | .regRead _ => .regRead

end Sys2Proof
end

