-- ==== Sys2Proof/Machine/State.lean ====
section
/-! DEFINITION. The state of the block (spec/10_state.md), its responses (spec/30_encoding.md R85,
R86), its error codes (spec/60_exceptions.md R252) and its reset values (R36). -/

namespace Sys2Proof.Machine

/-- The parser states of R23. The numbers `REG_READ` shows are `RxState.code`; the values 5 to 7 are
"never reached", so the type has none. DEDUCED, safe: log entry 5. -/
inductive RxState where
  /-- 0: searching for SOF1. -/
  | waitSof1
  /-- 1: SOF1 seen, expecting SOF2. -/
  | waitSof2
  /-- 2: reading the 4 header bytes. -/
  | readHeader
  /-- 3: reading `RX_LEN` payload bytes. -/
  | readPayload
  /-- 4: reading the 2 CRC bytes. -/
  | readCrc
deriving DecidableEq, Repr

/-- A frame as the parser emits it (spec/44_rx_parser.md R211): a copy, with its two flags. -/
structure Frame where
  version : U8
  kind : U8
  length : U16
  payload : List U8
  /-- The CRC received on the wire. -/
  crc : U16
  crcValid : Bool
  kindKnown : Bool
deriving DecidableEq, Repr

/-- The errors of R252. -/
inductive ErrCode where
  /-- 0x01: the opcode is reserved. -/
  | illegalOperation
  /-- 0x02: TX_FRAME with more than 65535 payload bytes. -/
  | payloadTooLong
  /-- 0x03: TX_FRAME with a kind other than 0x01 to 0x05. -/
  | badKind
  /-- 0x04: DATA_PACK or DATA_UNPACK with no layout loaded. -/
  | missingContext
  /-- 0x05: a payload of the wrong length. -/
  | malformedLength
  /-- 0x06: an active sensor's width is outside 1 to 32. -/
  | badLayout
  /-- 0x07: REG_READ of a number that names no register. -/
  | badRegister
deriving DecidableEq, Repr

/-- What an operation returns when it succeeds, as a term; its bytes are `Result.bytes` (R86). -/
inductive Result where
  /-- CRC_INIT and CRC_UPDATE: the accumulator after the step. -/
  | crc (v : U16)
  /-- TX_FRAME: the frame bytes. -/
  | frameBytes (f : List U8)
  /-- STATUS_PACK: the payload bytes. -/
  | statusPayload (s : List U8)
  /-- STATUS_UNPACK: the record. -/
  | statusRecord (r : StatusRecord)
  /-- LAYOUT_SET and LAYOUT_LOAD: nothing. -/
  | done
  /-- DATA_PACK: the payload bytes. -/
  | dataPayload (p : List U8)
  /-- DATA_UNPACK: timestamp, active map and 32 values. -/
  | samples (ts map : U32) (val : PerSensor U32)
  /-- RX_BYTE: the frame this byte completed, if it completed one. -/
  | rx (f : Option Frame)
  /-- RX_TICK: whether this tick aborted a frame. -/
  | tick (aborted : Bool)
  /-- REG_READ: the 32-bit value. -/
  | reg (value : U32)
deriving DecidableEq, Repr

/-- A response (R85): `ok(result)` or `err(code)`. -/
inductive Response where
  | ok (r : Result)
  | err (e : ErrCode)
deriving DecidableEq, Repr

/-- What the host can put in front of the block: a byte on the request port (R82), or the reset
input, which acts between steps (spec/70_reset_and_hazards.md R280, R281). Log entries 1 and 8. -/
inductive HostInput where
  | byte (b : U8)
  | reset
deriving DecidableEq, Repr

/-- A byte array as (index, byte) pairs: indices strictly rising, no listed byte 0x00. An index that
is not listed reads 0x00, the reset value of the buffer (R27). Log entry 7. -/
abbrev Memory := List Host.Cell

/-- The state of the block: the elements of spec/10_state.md, each under its own name, and the two
sides of the request port (`port`, `responses`), which are the model's own. -/
structure State where
  /-- `CRC_ACC` (R22). -/
  crcAcc : U16
  /-- `RX_STATE` (R23). -/
  rxState : RxState
  /-- `RX_HDR` (R24): version, kind, length low, length high. -/
  rxHdr : Vector U8 4
  /-- `RX_LEN` (R25). -/
  rxLen : U16
  /-- `RX_COUNT` (R26). -/
  rxCount : U16
  /-- `RX_PBUF` (R27): 65535 bytes. -/
  rxPbuf : Memory
  /-- `RX_CBUF` (R28): CRC low, CRC high. -/
  rxCbuf : Vector U8 2
  /-- `RX_STALL_CNT` (R29). -/
  rxStallCnt : U32
  /-- `LAYOUT_VALID` (R30). -/
  layoutValid : Bool
  /-- `LAYOUT_MAP` (R31). -/
  layoutMap : U32
  /-- `LAYOUT_BITS` (R32). -/
  layoutBits : PerSensor U8
  /-- `FRAMES_RX` (R33). -/
  framesRx : U32
  /-- `CRC_ERRORS` (R33). -/
  crcErrors : U32
  /-- `STALL_ABORTS` (R33). -/
  stallAborts : U32
  /-- `FRAMES_TX` (R33). -/
  framesTx : U32
  /-- The inputs issued and not yet consumed, oldest first. The model's own: log entry 1. -/
  port : List HostInput
  /-- The responses returned, oldest first (spec/00_scope.md R7). The model's own: log entry 2. -/
  responses : List Response
deriving DecidableEq, Repr

/-- Why the block can stop: for no reason. Errors are responses, and no request leaves the block
stuck or makes it refuse later requests (spec/60_exceptions.md R250, R260), so the type has no
constructor. Log entry 14. -/
inductive Fault where
deriving DecidableEq, Repr

/-- Why the model can refuse an operation. -/
inductive Refusal where
  /-- Raised by an arm of `exec` for an operation that has no meaning yet. Safe: the model stops where
  the block goes on. Every operation has its meaning, so nothing raises it. -/
  | notModelled (mnemonic : String)
deriving DecidableEq, Repr

/-- The machine right after reset: every element at its value in R36, nothing on the port, no response
returned. -/
def State.reset : State where
  crcAcc := Config.crcInitial
  rxState := .waitSof1
  rxHdr := Vector.replicate 4 0x00
  rxLen := 0
  rxCount := 0
  rxPbuf := []
  rxCbuf := Vector.replicate 2 0x00
  rxStallCnt := 0
  layoutValid := false
  layoutMap := 0
  layoutBits := Vector.replicate 32 0x00
  framesRx := 0
  crcErrors := 0
  stallAborts := 0
  framesTx := 0
  port := []
  responses := []

/-- The outcome of an operation or a step. -/
abbrev Outcome := Host.Outcome State Fault Refusal

end Sys2Proof.Machine
end

