-- ==== Sys2Proof/Machine/Ops.lean ====
section
/-! DEFINITION. The named operations over the state: the payload buffer, the two ways an operation ends
(`return` and `raise` of spec/00_scope.md R10), and reset. -/

namespace Sys2Proof.Machine

/-! ### The payload buffer -/

/-- The byte at an index; an index that is not listed reads 0x00, the buffer's reset value
(spec/10_state.md R27). -/
def Memory.read : Memory → Nat → U8
  | [], _ => 0x00
  | (k, b) :: m, a => if k = a then b else Memory.read m a

/-- Lists a byte at its place in the rising order of indices. -/
def Memory.insert (a : Nat) (b : U8) : Memory → Memory
  | [] => [(a, b)]
  | (k, c) :: m =>
    if a < k then (a, b) :: (k, c) :: m
    else if a = k then (a, b) :: m
    else (k, c) :: Memory.insert a b m

/-- Lists an index no more. -/
def Memory.erase (a : Nat) (m : Memory) : Memory := m.filter fun c => decide (c.1 ≠ a)

/-- `RX_PBUF[a] <- b`. A byte 0x00 is not listed, so equal buffers are equal lists. The array has
`RX_BUF_CAP` bytes (spec/10_state.md R27); a write outside it is dropped, which no reachable state
makes (R38). Log entry 6. -/
def Memory.write (m : Memory) (a : Nat) (b : U8) : Memory :=
  if a < Config.rxBufCap then
    if b = 0x00 then Memory.erase a m else Memory.insert a b m
  else m

/-- The canonical form: indices strictly rising and inside the array, no listed byte 0x00. -/
def Memory.wf : Memory → Bool
  | [] => true
  | [(k, b)] => decide (k < Config.rxBufCap) && decide (b ≠ 0x00)
  | (k, b) :: (k', b') :: m =>
    decide (k < k') && decide (b ≠ 0x00) && Memory.wf ((k', b') :: m)

/-- `RX_PBUF[0..n]`: the first `n` bytes. -/
def Memory.firstBytes (m : Memory) (n : Nat) : List U8 := (List.range n).map (Memory.read m)

/-! ### How an operation ends -/

/-- Hands a response to the host: one for each request, in request order (spec/30_encoding.md
R85). -/
def State.respond (s : State) (r : Response) : State :=
  { s with responses := s.responses ++ [r] }

/-- `return r` (spec/00_scope.md R10): the operation ends with response `ok(r)`. -/
def ret (r : Result) (s : State) : Outcome := .next (s.respond (.ok r))

/-- `raise E` (spec/00_scope.md R10): taking the block's one exception. The operation ends with
response `err(E)` and the state before it stands, counters included (spec/60_exceptions.md R250, R251,
R254). Nothing is saved, no mode changes, control goes nowhere, and the next request is performed
normally, so there is no return from it (R260). -/
def raise (e : ErrCode) (s : State) : Outcome := .next (s.respond (.err e))

/-- `LAYOUT_MAP <- map; LAYOUT_BITS <- bits; LAYOUT_VALID <- 1` (spec/43_data_pack.md R162, R165): a
layout changes whole, in one step (R163). -/
def State.loadLayout (s : State) (map : U32) (bits : PerSensor U8) : State :=
  { s with layoutMap := map, layoutBits := bits, layoutValid := true }

/-! ### Reset -/

/-- The reset input (spec/70_reset_and_hazards.md R280, R281): every element takes its reset value and
no response is returned. `rest` is what the host issues after the reset; the responses returned before
it have left the block and stay with the host (log entry 8). -/
def State.resetInput (s : State) (rest : List HostInput) : State :=
  { State.reset with port := rest, responses := s.responses }

end Sys2Proof.Machine
end

