-- ==== Sys2Proof/Machine/Control.lean ====
section
/-! DEFINITION. The register map (spec/10_state.md R35) and REG_READ (spec/45_control.md). -/

namespace Sys2Proof.Machine

/-- The registers of R35. All are read-only. -/
inductive Register where
  | version | crcAcc | rxState | rxLen | rxCount | rxStallCnt
  | framesRx | crcErrors | stallAborts | framesTx
  | layoutCtrl | layoutMap | config | stallLimit
  /-- `LAYOUT_BITS_k`. -/
  | layoutBits (k : Fin 8)
deriving DecidableEq, Repr

/-- The numbers of the parser states (R23). -/
def RxState.code : RxState → BitVec 3
  | .waitSof1 => 0
  | .waitSof2 => 1
  | .readHeader => 2
  | .readPayload => 3
  | .readCrc => 4

/-- The register a number names; none for 0x0E, 0x0F and 0x18 to 0xFF (R35, R241). -/
def Register.ofNumber (r : U8) : Option Register :=
  if r = 0x00 then some .version
  else if r = 0x01 then some .crcAcc
  else if r = 0x02 then some .rxState
  else if r = 0x03 then some .rxLen
  else if r = 0x04 then some .rxCount
  else if r = 0x05 then some .rxStallCnt
  else if r = 0x06 then some .framesRx
  else if r = 0x07 then some .crcErrors
  else if r = 0x08 then some .stallAborts
  else if r = 0x09 then some .framesTx
  else if r = 0x0A then some .layoutCtrl
  else if r = 0x0B then some .layoutMap
  else if r = 0x0C then some .config
  else if r = 0x0D then some .stallLimit
  else if h : 0x10 ≤ r.toNat ∧ r.toNat < 0x18 then
    some (.layoutBits ⟨r.toNat - 0x10, by omega⟩)
  else none

/-- `LAYOUT_BITS_k` (R35): four widths, the lowest sensor in bits 7..0. -/
def layoutWord (bits : PerSensor U8) (k : Fin 8) : U32 :=
  (bits[4 * k.val]'(by omega)).setWidth 32
    ||| (bits[4 * k.val + 1]'(by omega)).setWidth 32 <<< 8
    ||| (bits[4 * k.val + 2]'(by omega)).setWidth 32 <<< 16
    ||| (bits[4 * k.val + 3]'(by omega)).setWidth 32 <<< 24

/-- The 32-bit value of a register (R35, R240): narrower fields are zero-extended. -/
def readRegister (p : Params) (s : State) : Register → U32
  | .version => Config.protoVersion.setWidth 32
  | .crcAcc => s.crcAcc.setWidth 32
  | .rxState => s.rxState.code.setWidth 32
  | .rxLen => s.rxLen.setWidth 32
  | .rxCount => s.rxCount.setWidth 32
  | .rxStallCnt => s.rxStallCnt
  | .framesRx => s.framesRx
  | .crcErrors => s.crcErrors
  | .stallAborts => s.stallAborts
  | .framesTx => s.framesTx
  | .layoutCtrl => if s.layoutValid then 1 else 0
  | .layoutMap => s.layoutMap
  | .config => if p.sof2Retest then 1 else 0
  | .stallLimit => p.stallLimit
  | .layoutBits k => layoutWord s.layoutBits k

/-- `REG_READ r` (R240, R241). Reading changes nothing. -/
def execRegRead (r : U8) (s : State) : Outcome :=
  match Register.ofNumber r with
  | none => raise .badRegister s
  | some reg => ret (.reg (readRegister Config.params s reg)) s

end Sys2Proof.Machine
end

