-- ==== Sys2Proof/Machine/Crc16.lean ====
section
/-! DEFINITION. The CRC-16-CCITT function (spec/40_crc.md): the bit-serial reference algorithm, and
its table form. -/

namespace Sys2Proof.Machine

/-- One of the 8 shifts of R101: out goes bit 15, and where it was 1 the polynomial goes in. -/
def crcShift (c : U16) : U16 :=
  if c.getLsbD 15 then (c <<< 1) ^^^ Config.crcPolynomial else c <<< 1

/-- `n` shifts. -/
def crcShifts : Nat → U16 → U16
  | 0, c => c
  | n + 1, c => crcShifts n (crcShift c)

/-- `crc_step(c, b)` (R101): the byte enters at bits 15..8, then 8 shifts. -/
def crcStep (c : U16) (b : U8) : U16 := crcShifts 8 (c ^^^ ((b.setWidth 16) <<< 8))

/-- `crc_step` over a byte sequence, from a given value. -/
def crcFrom (c : U16) (s : List U8) : U16 := s.foldl crcStep c

/-- `crc16(s)` (R102): from 0xFFFF, no final XOR. -/
def crc16 (s : List U8) : U16 := crcFrom Config.crcInitial s

/-- `crc0(s)` (R108): the algorithm of R102 started from 0x0000. -/
def crc0 (s : List U8) : U16 := crcFrom 0x0000 s

/-- Entry `i` of the CRC table (R105). -/
def crcTable (i : U8) : U16 := crcStep 0x0000 i

/-- One byte of the table-driven form (R105). -/
def crcStepByTable (c : U16) (b : U8) : U16 :=
  (c <<< 8) ^^^ crcTable (((c >>> 8).setWidth 8) ^^^ b)

end Sys2Proof.Machine
end

