-- ==== Sys2Proof/Machine/Crc.lean ====
section
/-! DEFINITION. The streaming CRC generator (spec/40_crc.md R103, R104). -/

namespace Sys2Proof.Machine

/-- `CRC_INIT` (R103). -/
def execCrcInit (s : State) : Outcome :=
  let t := { s with crcAcc := Config.crcInitial }
  ret (.crc t.crcAcc) t

/-- `CRC_UPDATE b` (R104). -/
def execCrcUpdate (b : U8) (s : State) : Outcome :=
  let t := { s with crcAcc := crcStep s.crcAcc b }
  ret (.crc t.crcAcc) t

end Sys2Proof.Machine
end

