-- ==== Sys2Proof/Machine/Operands.lean ====
section
/-! DEFINITION. The byte layout of every structured operand: the Status payload
(spec/30_encoding.md R75, spec/42_status.md) and the per-sensor arrays of the formats `OL` and `OD`
(R83). -/

namespace Sys2Proof.Machine

/-- `status_bytes(r)` (spec/42_status.md): the 144-byte image of a Status record, padding zero
(R75). -/
def statusBytes (r : StatusRecord) : List U8 :=
  [r.state, r.nSensors] ++ le32 r.activeMap ++ le32 r.healthMap
    ++ r.sampRateMap.toList.flatMap le16
    ++ r.bitsPerSmpMap.toList
    ++ r.sensorRoleMap.toList
    ++ le16 r.adcFlags ++ le16 r.reserved
    ++ [0x00, 0x00]

/-- The 32 bytes from offset `o` on: one byte for each sensor. -/
def sensorBytes (s : List U8) (o : Nat) : PerSensor U8 :=
  Vector.ofFn fun i => byteAt s (o + i.val)

/-- The 32 u16 fields from offset `o` on. -/
def sensorHalves (s : List U8) (o : Nat) : PerSensor U16 :=
  Vector.ofFn fun i => u16At s (o + 2 * i.val)

/-- The 32 u32 fields from offset `o` on (format `OD`). -/
def sensorWords (s : List U8) (o : Nat) : PerSensor U32 :=
  Vector.ofFn fun i => u32At s (o + 4 * i.val)

/-- `status_fields(s)` (spec/42_status.md): the record of a Status payload. It reads offsets 0 to 141
only; the padding is not read (R75, R141). -/
def statusFields (s : List U8) : StatusRecord where
  state := byteAt s 0
  nSensors := byteAt s 1
  activeMap := u32At s 2
  healthMap := u32At s 6
  sampRateMap := sensorHalves s 10
  bitsPerSmpMap := sensorBytes s 74
  sensorRoleMap := sensorBytes s 106
  adcFlags := u16At s 138
  reserved := u16At s 140

end Sys2Proof.Machine
end

