-- ==== Sys2Proof/Machine/DataPack.lean ====
section
/-! DEFINITION. The sample layout and the sample packer and unpacker (spec/43_data_pack.md). -/

namespace Sys2Proof.Machine

/-- `active(M)` (R161, spec/42_status.md R143): the sensors whose bit is set, ascending. -/
def activeSensors (map : U32) : List (Fin 32) :=
  (List.finRange 32).filter fun i => map.getLsbD i.val

/-- `layout_ok` (R175): every active sensor's width is in 1 to 32. -/
def layoutOk (map : U32) (bits : PerSensor U8) : Bool :=
  (activeSensors map).all fun i => decide (1 ≤ bits[i].toNat) && decide (bits[i].toNat ≤ 32)

/-- `w(b)` (R179): the bytes of the field of a sensor of width `b`. -/
def fieldWidth (b : U8) : Nat := ceilDiv8 b.toNat

/-- The field of a value (R180): its low `b` bits in `w(b)` bytes; the rest is dropped, which is no
error. -/
def sampleField (b : U8) (v : U32) : List U8 :=
  leBytes (fieldWidth b) (v.toNat &&& maskBits b.toNat)

/-- The value of a field (R190): unsigned, the bits above the width dropped. -/
def fieldSample (b : U8) (field : List U8) : U32 :=
  BitVec.ofNat 32 (fromLe field &&& maskBits b.toNat)

/-- `data_len(M, B)` (R181). -/
def dataLen (map : U32) (bits : PerSensor U8) : Nat :=
  4 + ((activeSensors map).map fun i => fieldWidth bits[i]).sum

/-- The Data payload of a layout (R185, spec/30_encoding.md R77). -/
def packData (map : U32) (bits : PerSensor U8) (ts : U32) (v : PerSensor U32) : List U8 :=
  le32 ts ++ (activeSensors map).flatMap fun i => sampleField bits[i] v[i]

/-- The loop of R190: the fields of the given sensors, from offset `o` on. -/
def readSamples (bits : PerSensor U8) (p : List U8) :
    List (Fin 32) → Nat → PerSensor U32 → PerSensor U32
  | [], _, val => val
  | i :: is, o, val =>
    let w := fieldWidth bits[i]
    readSamples bits p is (o + w) (val.set i (fieldSample bits[i] (slice p o (o + w))))

/-- The samples of a Data payload (R190); an inactive sensor reads 0. -/
def unpackData (map : U32) (bits : PerSensor U8) (p : List U8) : PerSensor U32 :=
  readSamples bits p (activeSensors map) 4 (Vector.replicate 32 0)

/-- The checks of R176 on the layout in use, in their order. -/
def layoutError (s : State) : Option ErrCode :=
  if !s.layoutValid then some .missingContext
  else if !layoutOk s.layoutMap s.layoutBits then some .badLayout
  else none

/-- `LAYOUT_SET map, bits` (R162). -/
def execLayoutSet (map : U32) (bits : PerSensor U8) (s : State) : Outcome :=
  ret .done (s.loadLayout map bits)

/-- `LAYOUT_LOAD s` (R165): the layout of a Status payload (R164). -/
def execLayoutLoad (p : List U8) (s : State) : Outcome :=
  if p.length ≠ Config.statusLen then raise .malformedLength s
  else ret .done (s.loadLayout (u32At p 2) (sensorBytes p 74))

/-- `DATA_PACK ts, v` (R185). -/
def execDataPack (ts : U32) (v : PerSensor U32) (s : State) : Outcome :=
  match layoutError s with
  | some e => raise e s
  | none => ret (.dataPayload (packData s.layoutMap s.layoutBits ts v)) s

/-- `DATA_UNPACK s` (R190). -/
def execDataUnpack (p : List U8) (s : State) : Outcome :=
  match layoutError s with
  | some e => raise e s
  | none =>
    if p.length ≠ dataLen s.layoutMap s.layoutBits then raise .malformedLength s
    else ret (.samples (u32At p 0) s.layoutMap (unpackData s.layoutMap s.layoutBits p)) s

end Sys2Proof.Machine
end

