-- ==== Sys2Proof/Machine/Flags.lean ====
section
/-! DEFINITION. The flags of the block. It has no condition codes (spec/10_state.md R34): its flags are
`LAYOUT_VALID`, which LAYOUT_SET and LAYOUT_LOAD set, and the two flags of an emitted frame. -/

namespace Sys2Proof.Machine

/-- Whether a kind byte is one of the five of spec/30_encoding.md R73. -/
def kindKnown (kind : U8) : Bool := decide (0x01 ≤ kind.toNat) && decide (kind.toNat ≤ 0x05)

/-- `crc_valid` (spec/44_rx_parser.md R211): the computed CRC equals the received one. -/
def crcValid (computed received : U16) : Bool := computed == received

/-- The flags byte of a frame record (spec/30_encoding.md R86): bit 0 `crc_valid`, bit 1
`kind_known`, the rest 0. -/
def frameFlags (f : Frame) : U8 :=
  (if f.crcValid then 0x01 else 0x00) ||| (if f.kindKnown then 0x02 else 0x00)

end Sys2Proof.Machine
end

