-- ==== Sys2Proof/Machine/RxParser.lean ====
section
/-! DEFINITION. The frame parser and its stall timer (spec/44_rx_parser.md). The parameters
`SOF2_RETEST` and `STALL_LIMIT` are arguments; the meanings take this hardware's (`Config.params`). -/

namespace Sys2Proof.Machine

/-- `WaitSOF1` (R201). -/
def rxWaitSof1 (b : U8) (s : State) : State :=
  if b = Config.sof1 then { s with rxState := .waitSof2 } else s

/-- `WaitSOF2` (R202). -/
def rxWaitSof2 (p : Params) (b : U8) (s : State) : State :=
  if b = Config.sof2 then { s with rxState := .readHeader, rxCount := 0 }
  else if p.sof2Retest && b == Config.sof1 then { s with rxState := .waitSof2 }
  else { s with rxState := .waitSof1 }

/-- `ReadHeader` (R203, R204): the fourth byte gives the length and ends the header. -/
def rxReadHeader (b : U8) (s : State) : State :=
  let t := { s with
    rxHdr := s.rxHdr.setIfInBounds s.rxCount.toNat b
    rxCount := s.rxCount + 1 }
  if t.rxCount = (4 : U16) then
    let len : U16 := BitVec.ofNat 16 (fromLe [t.rxHdr[2], t.rxHdr[3]])
    { t with
      rxLen := len
      rxCount := 0
      rxState := if len = 0 then .readCrc else .readPayload }
  else t

/-- `ReadPayload` (R206). -/
def rxReadPayload (b : U8) (s : State) : State :=
  let t := { s with
    rxPbuf := s.rxPbuf.write s.rxCount.toNat b
    rxCount := s.rxCount + 1 }
  if t.rxCount = t.rxLen then { t with rxState := .readCrc, rxCount := 0 } else t

/-- The frame the parser holds when its last CRC byte is in (R208, R211). The CRC is computed over the
frame's own bytes; `CRC_ACC` is not used (spec/40_crc.md R106). -/
def heldFrame (s : State) : Frame :=
  let payload := s.rxPbuf.firstBytes s.rxLen.toNat
  let received : U16 := BitVec.ofNat 16 (fromLe s.rxCbuf.toList)
  { version := s.rxHdr[0]
    kind := s.rxHdr[1]
    length := s.rxLen
    payload := payload
    crc := received
    crcValid := crcValid (crc16 (s.rxHdr.toList ++ payload)) received
    kindKnown := kindKnown s.rxHdr[1] }

/-- `ReadCRC` (R207 to R210): the second byte completes the frame, which is emitted whatever its CRC. -/
def rxReadCrc (b : U8) (s : State) : State × Option Frame :=
  let t := { s with
    rxCbuf := s.rxCbuf.setIfInBounds s.rxCount.toNat b
    rxCount := s.rxCount + 1 }
  if t.rxCount.toNat < 2 then (t, none)
  else
    let f := heldFrame t
    ({ t with
        framesRx := t.framesRx + 1
        crcErrors := if f.crcValid then t.crcErrors else t.crcErrors + 1
        rxState := .waitSof1
        rxCount := 0 },
      some f)

/-- One byte of the stream (R212): any byte is forward progress and clears the stall count. -/
def rxByte (p : Params) (b : U8) (s : State) : State × Option Frame :=
  let s := { s with rxStallCnt := 0 }
  match s.rxState with
  | .waitSof1 => (rxWaitSof1 b s, none)
  | .waitSof2 => (rxWaitSof2 p b s, none)
  | .readHeader => (rxReadHeader b s, none)
  | .readPayload => (rxReadPayload b s, none)
  | .readCrc => rxReadCrc b s

/-- A stall abort (R216): the partial frame is discarded and counted, nothing is emitted. -/
def stallAbort (s : State) : State :=
  { s with
    rxState := .waitSof1
    rxCount := 0
    rxStallCnt := 0
    stallAborts := s.stallAborts + 1 }

/-- One period of the stall timer (R215): the state after it, and whether it aborted a frame. -/
def rxTick (p : Params) (s : State) : State × Bool :=
  match s.rxState with
  | .waitSof1 => ({ s with rxStallCnt := 0 }, false)
  | .waitSof2 | .readHeader | .readPayload | .readCrc =>
    let t := { s with rxStallCnt := s.rxStallCnt + 1 }
    if p.stallLimit.toNat ≤ t.rxStallCnt.toNat then (stallAbort t, true) else (t, false)

/-- `RX_BYTE b` (R212). -/
def execRxByte (b : U8) (s : State) : Outcome :=
  match rxByte Config.params b s with
  | (t, f) => ret (.rx f) t

/-- `RX_TICK` (R215). -/
def execRxTick (s : State) : Outcome :=
  match rxTick Config.params s with
  | (t, aborted) => ret (.tick aborted) t

end Sys2Proof.Machine
end

