-- ==== Sys2Proof/Machine/Status.lean ====
section
/-! DEFINITION. The Status codec (spec/42_status.md). No field is range-checked (R140, R141). -/

namespace Sys2Proof.Machine

/-- `STATUS_PACK f` (R140). -/
def execStatusPack (f : StatusRecord) (s : State) : Outcome :=
  ret (.statusPayload (statusBytes f)) s

/-- `STATUS_UNPACK s` (R141). It does not change the sample layout. -/
def execStatusUnpack (p : List U8) (s : State) : Outcome :=
  if p.length ≠ Config.statusLen then raise .malformedLength s
  else ret (.statusRecord (statusFields p)) s

end Sys2Proof.Machine
end

