-- ==== Sys2Proof/Machine/TxFramer.lean ====
section
/-! DEFINITION. The frame encoder (spec/41_tx_framer.md). -/

namespace Sys2Proof.Machine

/-- The bytes the CRC of a sent frame covers (R121, spec/30_encoding.md R72): version, kind, length low
byte first, payload. -/
def frameBody (kind : U8) (s : List U8) : List U8 :=
  [Config.protoVersion, kind] ++ leBytes 2 s.length ++ s

/-- The frame around a payload (spec/30_encoding.md R70): SOF, body, CRC low byte first. -/
def frameAround (kind : U8) (s : List U8) : List U8 :=
  [Config.sof1, Config.sof2] ++ frameBody kind s ++ le16 (crc16 (frameBody kind s))

/-- `TX_FRAME kind, s` (R121). -/
def execTxFrame (kind : U8) (s : List U8) (st : State) : Outcome :=
  if Config.maxPayload < s.length then raise .payloadTooLong st
  else if !kindKnown kind then raise .badKind st
  else ret (.frameBytes (frameAround kind s)) { st with framesTx := st.framesTx + 1 }

end Sys2Proof.Machine
end

