-- ==== Sys2Proof/Machine/Dispatch.lean ====
section
/-! DEFINITION. The operation port: one arm for each row of spec/opcode_table.json. -/

namespace Sys2Proof.Machine

/-- The meaning of an operation, in one atomic step (spec/00_scope.md R6). -/
def exec (i : Instr) (s : State) : Host.Outcome State Fault Refusal :=
  match i with
  | .crcInit => Sys2Proof.Machine.execCrcInit s
  | .crcUpdate b => Sys2Proof.Machine.execCrcUpdate b s
  | .txFrame kind p => Sys2Proof.Machine.execTxFrame kind p s
  | .statusPack f => Sys2Proof.Machine.execStatusPack f s
  | .statusUnpack p => Sys2Proof.Machine.execStatusUnpack p s
  | .layoutSet map bits => Sys2Proof.Machine.execLayoutSet map bits s
  | .layoutLoad p => Sys2Proof.Machine.execLayoutLoad p s
  | .dataPack ts v => Sys2Proof.Machine.execDataPack ts v s
  | .dataUnpack p => Sys2Proof.Machine.execDataUnpack p s
  | .rxByte b => Sys2Proof.Machine.execRxByte b s
  | .rxTick => Sys2Proof.Machine.execRxTick s
  | .regRead r => Sys2Proof.Machine.execRegRead r s

end Sys2Proof.Machine
end

