-- ==== Sys2Proof/WellFormed.lean ====
section
/-! DEFINITION. Which instructions the byte form of a request can express. -/

namespace Sys2Proof

/-- R83: as a term, a byte-sequence operand has any length; the byte form limits it to 65535 by its
u16 count. Every other operand value is legal at the encoding level (R87). -/
def Instr.wellFormed : Instr → Bool
  | .txFrame _ s => decide (s.length ≤ Config.maxPayload)
  | .statusUnpack s => decide (s.length ≤ Config.maxPayload)
  | .layoutLoad s => decide (s.length ≤ Config.maxPayload)
  | .dataUnpack s => decide (s.length ≤ Config.maxPayload)
  | .crcInit | .crcUpdate _ | .statusPack _ | .layoutSet _ _ | .dataPack _ _
  | .rxByte _ | .rxTick | .regRead _ => true

end Sys2Proof
end

