-- ==== Sys2Proof/Decode.lean ====
section
/-! DEFINITION. The byte form of requests: the decoder of the request port, total on any bytes
(spec/30_encoding.md R82 to R84, R87), and the encoder beside it. -/

namespace Sys2Proof

open Machine

/-- What the bytes waiting on the port are. -/
inductive Decoded where
  /-- A whole request and the bytes after it (R82: they belong to the next request). -/
  | request (i : Instr) (rest : List U8)
  /-- A reserved opcode, a request of one byte (R87), and the bytes after it. -/
  | reserved (op : U8) (rest : List U8)
  /-- The last byte of the request has not arrived (R82), or there is no byte at all. -/
  | incomplete
deriving DecidableEq, Repr

/-- The opcode byte of an operation (R84). -/
def Opcode.code : Opcode → U8
  | .crcInit => 0x01
  | .crcUpdate => 0x02
  | .txFrame => 0x10
  | .statusPack => 0x20
  | .statusUnpack => 0x21
  | .layoutSet => 0x30
  | .layoutLoad => 0x31
  | .dataPack => 0x32
  | .dataUnpack => 0x33
  | .rxByte => 0x40
  | .rxTick => 0x41
  | .regRead => 0x50

/-- The request format of an operation (R84). -/
def Opcode.format : Opcode → Format
  | .crcInit | .rxTick => .o
  | .crcUpdate | .rxByte | .regRead => .ob
  | .txFrame => .oks
  | .statusUnpack | .layoutLoad | .dataUnpack => .os
  | .statusPack => .of
  | .layoutSet => .ol
  | .dataPack => .od

/-- The rows of the opcode map, in the order of R84. -/
def Opcode.all : List Opcode :=
  [.crcInit, .crcUpdate, .txFrame, .statusPack, .statusUnpack, .layoutSet,
   .layoutLoad, .dataPack, .dataUnpack, .rxByte, .rxTick, .regRead]

/-- The operation a first request byte selects; none for a reserved opcode (R84, R87). -/
def Opcode.ofByte (b : U8) : Option Opcode := Opcode.all.find? fun o => o.code == b

/-- The first `n` of the bytes and the rest of them, if there are so many. -/
def splitBytes (n : Nat) (bs : List U8) : Option (List U8 × List U8) :=
  if n ≤ bs.length then some (bs.take n, bs.drop n) else none

/-- A byte-sequence operand: its u16 LE count, then that many bytes (R83). -/
def splitCounted (bs : List U8) : Option (List U8 × List U8) :=
  match bs with
  | lo :: hi :: rest => splitBytes (fromLe [lo, hi]) rest
  | _ => none

/-- Reads an operation's operands from the bytes after its opcode, in the layout of its format
(R83); none while they have not all arrived. -/
def decodeOperands (o : Opcode) (bs : List U8) : Option (Instr × List U8) :=
  match o with
  | .crcInit => some (.crcInit, bs)
  | .rxTick => some (.rxTick, bs)
  | .crcUpdate => match bs with
    | b :: rest => some (.crcUpdate b, rest)
    | [] => none
  | .rxByte => match bs with
    | b :: rest => some (.rxByte b, rest)
    | [] => none
  | .regRead => match bs with
    | b :: rest => some (.regRead b, rest)
    | [] => none
  | .txFrame => match bs with
    | kind :: more => (splitCounted more).map fun (s, rest) => (.txFrame kind s, rest)
    | [] => none
  | .statusUnpack => (splitCounted bs).map fun (s, rest) => (.statusUnpack s, rest)
  | .layoutLoad => (splitCounted bs).map fun (s, rest) => (.layoutLoad s, rest)
  | .dataUnpack => (splitCounted bs).map fun (s, rest) => (.dataUnpack s, rest)
  | .statusPack => (splitBytes Config.statusFieldsLen bs).map fun (f, rest) =>
      (.statusPack (statusFields f), rest)
  | .layoutSet => (splitBytes 36 bs).map fun (f, rest) =>
      (.layoutSet (u32At f 0) (sensorBytes f 4), rest)
  | .dataPack => (splitBytes 132 bs).map fun (f, rest) =>
      (.dataPack (u32At f 0) (sensorWords f 4), rest)

/-- The decoder of the request port (R82). -/
def decode (bs : List U8) : Decoded :=
  match bs with
  | [] => .incomplete
  | op :: more =>
    match Opcode.ofByte op with
    | none => .reserved op more
    | some o =>
      match decodeOperands o more with
      | none => .incomplete
      | some (i, rest) => .request i rest

/-- The operand bytes of an instruction, in the layout of its format (R83). -/
def encodeOperands : Instr → List U8
  | .crcInit | .rxTick => []
  | .crcUpdate b | .rxByte b | .regRead b => [b]
  | .txFrame kind s => kind :: (leBytes 2 s.length ++ s)
  | .statusUnpack s | .layoutLoad s | .dataUnpack s => leBytes 2 s.length ++ s
  | .statusPack f => (statusBytes f).take Config.statusFieldsLen
  | .layoutSet map bits => le32 map ++ bits.toList
  | .dataPack ts v => le32 ts ++ v.toList.flatMap le32

/-- The byte form of a request (R83, R84). It says what the instruction says only for a well-formed
instruction: the count of a longer byte sequence does not fit its u16. -/
def encode (i : Instr) : List U8 := i.opcode.code :: encodeOperands i

/-- The length in bytes of the request that starts with these bytes, told by its opcode and, where
its format has a count, by the count (R82, R83, R87). -/
def requestSize (bs : List U8) : Nat :=
  match Opcode.ofByte (byteAt bs 0) with
  | none => 1
  | some o =>
    match o.format with
    | .o => 1
    | .ob => 2
    | .oks => 4 + fromLe [byteAt bs 2, byteAt bs 3]
    | .os => 3 + fromLe [byteAt bs 1, byteAt bs 2]
    | .of => 143
    | .ol => 37
    | .od => 133

/-- The bytes of the request whose bits are `w`, numbered as spec/opcode_table.json numbers them
(bits 7..0 are the first byte): the table's bytes, then zero bytes up to the request's own length.
Log entry 12. -/
def tableBytes (nbits w : Nat) : List U8 :=
  let head := leBytes (nbits / 8) w
  head ++ List.replicate (requestSize head - head.length) 0

/-- The instruction the decoder reads from the request whose bits are `w`; none where the opcode is
reserved. -/
def decodeTableWord (nbits w : Nat) : Option Instr :=
  match decode (tableBytes nbits w) with
  | .request i _ => some i
  | .reserved _ _ => none
  | .incomplete => none

end Sys2Proof
end

