-- ==== Sys2Proof/Machine/Fetch.lean ====
section
/-! DEFINITION. Taking the next request from the port (spec/30_encoding.md R82) and where a reset
stands among the requests (spec/70_reset_and_hazards.md R281). -/

namespace Sys2Proof.Machine

/-- The request bytes on the port before the next reset, or before its end. -/
def leadingBytes : List HostInput → List U8
  | .byte b :: rest => b :: leadingBytes rest
  | _ => []

/-- What stands on the port from the next reset on. -/
def afterLeadingBytes : List HostInput → List HostInput
  | .byte _ :: rest => afterLeadingBytes rest
  | other => other

/-- Request bytes as they stand on the port. -/
def asInput (bs : List U8) : List HostInput := bs.map .byte

/-- What the block does next. -/
inductive Fetched where
  /-- Perform a request; `rest` stays on the port. -/
  | request (i : Instr) (rest : List HostInput)
  /-- Answer a reserved opcode. -/
  | reserved (op : U8) (rest : List HostInput)
  /-- Reset; the bytes of an unfinished request are gone (R281). -/
  | reset (rest : List HostInput)
  /-- Nothing: the next request has not arrived whole (spec/00_scope.md R6). -/
  | idle
deriving DecidableEq, Repr

/-- A request that has arrived whole before a reset is performed before it; one that has not is
discarded by it (R281). -/
def fetch (port : List HostInput) : Fetched :=
  match decode (leadingBytes port) with
  | .request i rest => .request i (asInput rest ++ afterLeadingBytes port)
  | .reserved op rest => .reserved op (asInput rest ++ afterLeadingBytes port)
  | .incomplete =>
    match afterLeadingBytes port with
    | .reset :: rest => .reset rest
    | _ => .idle

end Sys2Proof.Machine
end

