-- ==== Sys2Proof/Machine/Step.lean ====
section
/-! DEFINITION. One step of the block: one request, one reset, or nothing (spec/00_scope.md R6). -/

namespace Sys2Proof.Machine

/-- Takes the next request from the port and performs it. A reserved opcode is answered with
`IllegalOperation` (spec/45_control.md R242). Without a whole request the block does nothing (R6). -/
def step (s : State) : Host.Outcome State Fault Refusal :=
  match fetch s.port with
  | .request i rest => exec i { s with port := rest }
  | .reserved _ rest => raise .illegalOperation { s with port := rest }
  | .reset rest => .next (s.resetInput rest)
  | .idle => .next s

/-- `s` with the request whose bits are `w` (numbered as in spec/opcode_table.json) next on the port.
Log entry 12. -/
def State.withFetchWord (s : State) (nbits w : Nat) : State :=
  { s with port := asInput (tableBytes nbits w) ++ s.port }

end Sys2Proof.Machine
end

