-- ==== Sys2Proof/Machine/Pseudo.lean ====
section
/-! DEFINITION. The pseudo-operations of spec/30_encoding.md R89 and the sequences of operations they
stand for. -/

namespace Sys2Proof.Machine

/-- `RX_BYTES [b0 … bk-1]` (R89, spec/44_rx_parser.md R213). -/
def rxBytes (bs : List U8) : List Instr := bs.map .rxByte

/-- `CRC_BYTES [b0 … bk-1]` (R89, spec/40_crc.md R107). -/
def crcBytes (bs : List U8) : List Instr := .crcInit :: bs.map .crcUpdate

/-- `RX_IDLE k` (R89). -/
def rxIdle (k : Nat) : List Instr := List.replicate k .rxTick

/-- A sequence of operations, in issue order (spec/20_memory.md R59). -/
def execAll : List Instr → State → Outcome
  | [], s => .next s
  | i :: is, s =>
    match exec i s with
    | .next t => execAll is t
    | .fault r => .fault r
    | .refused r => .refused r

/-- The frame a response carries, if it is that of an RX_BYTE that completed one. -/
def Response.emitted : Response → Option Frame
  | .ok (.rx f) => f
  | _ => none

/-- The frames among responses, in order: the result of `RX_BYTES` (R89). -/
def framesIn (rs : List Response) : List Frame := rs.filterMap Response.emitted

/-- The parser fed a byte sequence, for any parameters: the state after it and the frames emitted. -/
def feed (p : Params) : List U8 → State → State × List Frame
  | [], s => (s, [])
  | b :: bs, s =>
    match rxByte p b s with
    | (t, f) =>
      match feed p bs t with
      | (u, fs) => (u, f.toList ++ fs)

end Sys2Proof.Machine
end

