-- ==== Sys2Proof/Machine/Response.lean ====
section
/-! DEFINITION. The byte form of responses (spec/30_encoding.md R85, R86; spec/60_exceptions.md
R252). -/

namespace Sys2Proof.Machine

/-- The error codes of R252. -/
def ErrCode.code : ErrCode → U8
  | .illegalOperation => 0x01
  | .payloadTooLong => 0x02
  | .badKind => 0x03
  | .missingContext => 0x04
  | .malformedLength => 0x05
  | .badLayout => 0x06
  | .badRegister => 0x07

/-- The frame record of R86. -/
def Frame.bytes (f : Frame) : List U8 :=
  [f.version, f.kind] ++ le16 f.length ++ f.payload ++ le16 f.crc ++ [frameFlags f]

/-- The result bytes of R86. -/
def Result.bytes : Result → List U8
  | .crc v => le16 v
  | .frameBytes f => leBytes 4 f.length ++ f
  | .statusPayload s => s
  | .statusRecord r => (statusBytes r).take Config.statusFieldsLen
  | .done => []
  | .dataPayload p => leBytes 2 p.length ++ p
  | .samples ts map val => le32 ts ++ le32 map ++ val.toList.flatMap le32
  | .rx none => [0x00]
  | .rx (some f) => 0x01 :: f.bytes
  | .tick aborted => [if aborted then 0x01 else 0x00]
  | .reg value => le32 value

/-- The response bytes of R85: a status byte, 0x00 and the result bytes for `ok`, the error code alone
for `err` (R251). -/
def Response.bytes : Response → List U8
  | .ok r => 0x00 :: r.bytes
  | .err e => [e.code]

/-- Every byte the block has returned, in order. -/
def State.responseBytes (s : State) : List U8 := s.responses.flatMap Response.bytes

end Sys2Proof.Machine
end

