-- ==== Sys2Proof/Safety.lean ====
section
/-! DEFINITION. The terms in which claims about the block are stated: the invariant of its runs, what each
operation may touch, the errors it may return, a parser that is only a list of bytes to compare the
real one with, and what of the receive buffers no response can show. -/

namespace Sys2Proof.Machine

/-! ### The invariant (spec/10_state.md R38) -/

/-- The part of R38 that is about one state: the bounds of `RX_COUNT`, the length the header gives and
the stall count below its limit. Beside it `pbufWf`, the canonical form of the list that stands for
`RX_PBUF`: no clause of R38, but the model's own representation (DEDUCED, safe: log entry 7). -/
structure Inv (p : Params) (s : State) : Prop where
  idleCount : s.rxState = .waitSof1 ∨ s.rxState = .waitSof2 → s.rxCount = 0
  headerCount : s.rxState = .readHeader → s.rxCount.toNat ≤ 3
  payloadCount : s.rxState = .readPayload → s.rxCount.toNat < s.rxLen.toNat
  payloadLen : s.rxState = .readPayload → fromLe [s.rxHdr[2], s.rxHdr[3]] = s.rxLen.toNat
  crcCount : s.rxState = .readCrc → s.rxCount.toNat ≤ 1
  crcLen : s.rxState = .readCrc → fromLe [s.rxHdr[2], s.rxHdr[3]] = s.rxLen.toNat
  idleStall : s.rxState = .waitSof1 → s.rxStallCnt = 0
  stallBelow : s.rxStallCnt.toNat < p.stallLimit.toNat
  pbufWf : s.rxPbuf.wf = true

/-! ### What an operation touches (spec/10_state.md R39) -/

/-- Nothing but the response. -/
def OnlyAnswers (s t : State) : Prop := t = { s with responses := t.responses }

/-- Only `CRC_ACC`. -/
def OnlyCrcChanges (s t : State) : Prop :=
  t = { s with crcAcc := t.crcAcc, responses := t.responses }

/-- Only `FRAMES_TX`. -/
def OnlyTxChanges (s t : State) : Prop :=
  t = { s with framesTx := t.framesTx, responses := t.responses }

/-- Only the sample layout. -/
def OnlyLayoutChanges (s t : State) : Prop :=
  t = { s with
    layoutValid := t.layoutValid, layoutMap := t.layoutMap, layoutBits := t.layoutBits
    responses := t.responses }

/-- Only the parser state and its counters. -/
def OnlyRxChanges (s t : State) : Prop :=
  t = { s with
    rxState := t.rxState, rxHdr := t.rxHdr, rxLen := t.rxLen, rxCount := t.rxCount
    rxPbuf := t.rxPbuf, rxCbuf := t.rxCbuf, rxStallCnt := t.rxStallCnt
    framesRx := t.framesRx, crcErrors := t.crcErrors, stallAborts := t.stallAborts
    responses := t.responses }

/-- What R39 lets an operation write. -/
def Touches : Instr → State → State → Prop
  | .crcInit => OnlyCrcChanges
  | .crcUpdate _ => OnlyCrcChanges
  | .txFrame _ _ => OnlyTxChanges
  | .statusPack _ => OnlyAnswers
  | .statusUnpack _ => OnlyAnswers
  | .layoutSet _ _ => OnlyLayoutChanges
  | .layoutLoad _ => OnlyLayoutChanges
  | .dataPack _ _ => OnlyAnswers
  | .dataUnpack _ => OnlyAnswers
  | .rxByte _ => OnlyRxChanges
  | .rxTick => OnlyRxChanges
  | .regRead _ => OnlyAnswers

/-- The two states hold the same layout. -/
def SameLayout (s t : State) : Prop :=
  s.layoutValid = t.layoutValid ∧ s.layoutMap = t.layoutMap ∧ s.layoutBits = t.layoutBits

/-- The two states hold the same parser state and receive counters. -/
def SameRx (s t : State) : Prop :=
  s.rxState = t.rxState ∧ s.rxHdr = t.rxHdr ∧ s.rxLen = t.rxLen ∧ s.rxCount = t.rxCount ∧
  s.rxPbuf = t.rxPbuf ∧ s.rxCbuf = t.rxCbuf ∧ s.rxStallCnt = t.rxStallCnt ∧
  s.framesRx = t.framesRx ∧ s.crcErrors = t.crcErrors ∧ s.stallAborts = t.stallAborts

/-- The two states agree in what R39 lets an operation read or write. -/
def SameForOp : Instr → State → State → Prop
  | .crcInit, s, t => s.crcAcc = t.crcAcc
  | .crcUpdate _, s, t => s.crcAcc = t.crcAcc
  | .txFrame _ _, s, t => s.framesTx = t.framesTx
  | .statusPack _, _, _ => True
  | .statusUnpack _, _, _ => True
  | .layoutSet _ _, s, t => SameLayout s t
  | .layoutLoad _, s, t => SameLayout s t
  | .dataPack _ _, s, t => SameLayout s t
  | .dataUnpack _, s, t => SameLayout s t
  | .rxByte _, s, t => SameRx s t
  | .rxTick, s, t => SameRx s t
  | .regRead _, s, t =>
    s.crcAcc = t.crcAcc ∧ s.framesTx = t.framesTx ∧ SameLayout s t ∧ SameRx s t

/-- The operations R57 excepts from being idempotent. -/
def isIdempotent : Instr → Bool
  | .rxByte _ | .rxTick | .crcUpdate _ | .txFrame _ _ => false
  | .crcInit | .statusPack _ | .statusUnpack _ | .layoutSet _ _ | .layoutLoad _
  | .dataPack _ _ | .dataUnpack _ | .regRead _ => true

/-! ### What the counters count (spec/10_state.md R33) -/

/-- The events a response reports: `FRAMES_RX` counts the frames, `CRC_ERRORS` the frames with
`crc_valid = false`, `STALL_ABORTS` the aborting ticks, `FRAMES_TX` the frames encoded. -/
structure Events where
  framesRx : Nat
  crcErrors : Nat
  stallAborts : Nat
  framesTx : Nat

/-- What one response adds to each counter. -/
def eventsOf : Response → Events
  | .ok (.rx (some f)) => ⟨1, if f.crcValid = true then 0 else 1, 0, 0⟩
  | .ok (.tick true) => ⟨0, 0, 1, 0⟩
  | .ok (.frameBytes _) => ⟨0, 0, 0, 1⟩
  | _ => ⟨0, 0, 0, 0⟩

/-! ### Errors (spec/60_exceptions.md) -/

/-- The errors each operation can return (R253). -/
def possibleErrors : Instr → List ErrCode
  | .crcInit | .crcUpdate _ | .statusPack _ | .layoutSet _ _ | .rxByte _ | .rxTick => []
  | .txFrame _ _ => [.payloadTooLong, .badKind]
  | .statusUnpack _ => [.malformedLength]
  | .layoutLoad _ => [.malformedLength]
  | .dataPack _ _ => [.missingContext, .badLayout]
  | .dataUnpack _ => [.missingContext, .badLayout, .malformedLength]
  | .regRead _ => [.badRegister]

/-- The reserved opcodes as spec/30_encoding.md R87 lists them. -/
abbrev ReservedOpcode (op : U8) : Prop :=
  op.toNat = 0x00 ∨ (0x03 ≤ op.toNat ∧ op.toNat ≤ 0x0F) ∨ (0x11 ≤ op.toNat ∧ op.toNat ≤ 0x1F) ∨
  (0x22 ≤ op.toNat ∧ op.toNat ≤ 0x2F) ∨ (0x34 ≤ op.toNat ∧ op.toNat ≤ 0x3F) ∨
  (0x42 ≤ op.toNat ∧ op.toNat ≤ 0x4F) ∨ (0x51 ≤ op.toNat ∧ op.toNat ≤ 0xFF)

/-! ### The Data payload (spec/30_encoding.md R77) -/

/-- Sensor `i` is active. -/
abbrev Active (map : U32) (i : Fin 32) : Prop := map.getLsbD i.val = true

/-- Every active sensor has a width in 1 to 32 (spec/43_data_pack.md R175). -/
abbrev WidthsInRange (map : U32) (bits : PerSensor U8) : Prop :=
  ∀ i : Fin 32, Active map i → 1 ≤ bits[i].toNat ∧ bits[i].toNat ≤ 32

/-- The field bytes of the active sensors below `i`, counted sensor by sensor. -/
def bytesBelow (map : U32) (bits : PerSensor U8) : Nat → Nat
  | 0 => 0
  | i + 1 =>
    bytesBelow map bits i +
      (if map.getLsbD i then (((bits.toList.getD i 0).toNat + 7) / 8) else 0)

/-- The offset of sensor `i`'s field in a Data payload (R77): after the timestamp and the fields of the
active sensors below it. -/
def fieldOffset (map : U32) (bits : PerSensor U8) (i : Nat) : Nat := 4 + bytesBelow map bits i

/-! ### A parser that is only a list of bytes -/

/-- The parser as spec/44_rx_parser.md section 1 tells it: searching, SOF1 seen, or inside a frame
whose bytes after SOF2 are these. -/
inductive FrameParse where
  | hunting
  | sof1Seen
  | inFrame (got : List U8)
deriving DecidableEq, Repr

/-- The payload length the header bytes give (R204). -/
def declaredLength (got : List U8) : Nat := fromLe (slice got 2 4)

/-- The frame made of header, payload and CRC bytes (R211). -/
def frameOf (got : List U8) : Frame :=
  let n := declaredLength got
  let received : U16 := BitVec.ofNat 16 (fromLe (slice got (4 + n) (6 + n)))
  { version := byteAt got 0
    kind := byteAt got 1
    length := BitVec.ofNat 16 n
    payload := slice got 4 (4 + n)
    crc := received
    crcValid := decide (crc16 (slice got 0 (4 + n)) = received)
    kindKnown := decide (1 ≤ (byteAt got 1).toNat ∧ (byteAt got 1).toNat ≤ 5) }

/-- One byte: a frame ends two bytes after its payload (spec/30_encoding.md R71). -/
def FrameParse.next (retest : Bool) (b : U8) : FrameParse → FrameParse × Option Frame
  | .hunting => (if b = 0xA5 then .sof1Seen else .hunting, none)
  | .sof1Seen =>
    (if b = 0x5A then .inFrame []
     else if retest = true ∧ b = 0xA5 then .sof1Seen
     else .hunting, none)
  | .inFrame got =>
    let now := got ++ [b]
    if 4 ≤ now.length ∧ now.length = 6 + declaredLength now then (.hunting, some (frameOf now))
    else (.inFrame now, none)

/-- The registers and buffers hold what the list parser holds: the second half of R38 ("`RX_HDR` holds
this frame's header", "`RX_PBUF[0..RX_COUNT]` hold this frame's first payload bytes"). -/
def Represents (s : State) : FrameParse → Prop
  | .hunting => s.rxState = .waitSof1 ∧ s.rxCount = 0
  | .sof1Seen => s.rxState = .waitSof2 ∧ s.rxCount = 0
  | .inFrame got =>
    (s.rxState = .readHeader ∧ s.rxCount.toNat ≤ 3 ∧ got = s.rxHdr.toList.take s.rxCount.toNat) ∨
    (s.rxState = .readPayload ∧ s.rxCount.toNat < s.rxLen.toNat ∧
      s.rxLen.toNat = fromLe [s.rxHdr[2], s.rxHdr[3]] ∧
      got = s.rxHdr.toList ++ s.rxPbuf.firstBytes s.rxCount.toNat) ∨
    (s.rxState = .readCrc ∧ s.rxCount.toNat ≤ 1 ∧
      s.rxLen.toNat = fromLe [s.rxHdr[2], s.rxHdr[3]] ∧
      got = s.rxHdr.toList ++ s.rxPbuf.firstBytes s.rxLen.toNat ++
        s.rxCbuf.toList.take s.rxCount.toNat)

/-- `A5 5A` stands nowhere in the bytes (spec/44_rx_parser.md R214 case 1). -/
abbrev NoSofPair (g : List U8) : Prop := ¬ [0xA5, 0x5A] <:+: g

/-- Fed from this state, the bytes hold no SOF match: no 0x5A arrives while the parser is in `WaitSOF2`
(spec/44_rx_parser.md R214). -/
def NoSofMatch (p : Params) (g : List U8) (s : State) : Prop :=
  ∀ before after : List U8, g = before ++ 0x5A :: after → (feed p before s).1.rxState ≠ .waitSof2

/-- The length of the run of 0xA5 bytes the sequence ends in (R214 case 1). -/
def finalSof1Run (g : List U8) : Nat := (g.reverse.takeWhile (· = 0xA5)).length

/-- The frame of a payload as the parser emits it (R218). -/
def sentFrame (kind : U8) (payload : List U8) : Frame where
  version := 0x01
  kind := kind
  length := BitVec.ofNat 16 payload.length
  payload := payload
  crc := crc16 ([0x01, kind] ++ leBytes 2 payload.length ++ payload)
  crcValid := true
  kindKnown := true

/-- The byte sequence with bit `k` of byte `j` flipped. -/
def flipBit (s : List U8) (j k : Nat) : List U8 := s.set j (byteAt s j ^^^ BitVec.ofNat 8 (2 ^ k))

/-! ### What of the buffers no response shows (spec/10_state.md R40) -/

/-- A byte array with the elements from `n` on set to 0. -/
def keepFirst {k : Nat} (v : Vector U8 k) (n : Nat) : Vector U8 k :=
  Vector.ofFn fun i => if i.val < n then v[i] else 0

/-- How many bytes of `RX_HDR` the current frame has written. -/
def hdrWritten (s : State) : Nat :=
  match s.rxState with
  | .waitSof1 | .waitSof2 => 0
  | .readHeader => s.rxCount.toNat
  | .readPayload | .readCrc => 4

/-- How many bytes of `RX_PBUF` the current frame has written. -/
def pbufWritten (s : State) : Nat :=
  match s.rxState with
  | .waitSof1 | .waitSof2 | .readHeader => 0
  | .readPayload => s.rxCount.toNat
  | .readCrc => s.rxLen.toNat

/-- How many bytes of `RX_CBUF` the current frame has written. -/
def cbufWritten (s : State) : Nat :=
  match s.rxState with
  | .waitSof1 | .waitSof2 | .readHeader | .readPayload => 0
  | .readCrc => s.rxCount.toNat

/-- The state with every buffer byte the current frame has not written set to 0. Two states that are
equal after this differ only in bytes R40 says no response can show. -/
def forgetStale (s : State) : State :=
  { s with
    rxHdr := keepFirst s.rxHdr (hdrWritten s)
    rxPbuf := s.rxPbuf.filter fun c => decide (c.1 < pbufWritten s)
    rxCbuf := keepFirst s.rxCbuf (cbufWritten s) }

end Sys2Proof.Machine
end

