-- ==== Sys2Proof/Certificates/Slice0/Obligations.lean ====
section
/-! DEFINITION. The statements for the provers. Each says which rule of spec/ it formalises; where a
clause rests on a convention of the model's own, it names the log entry. -/

open Sys2Proof Sys2Proof.Machine

/-! ### Requests, responses and the step -/

/-- 30_encoding.md R82 to R84: the byte form of every request that has one reads back as that request,
whatever follows it on the port. -/
def Obligations.DecodeOfEncodeIsTheRequest : Prop :=
  ∀ (i : Instr) (rest : List U8), i.wellFormed = true → decode (encode i ++ rest) = .request i rest

/-- 30_encoding.md R82 to R84: bytes the decoder takes for a request are the encoding of that request,
so no bit of a request is dropped and no two requests share their bytes. -/
def Obligations.DecodedBytesAreTheEncoding : Prop :=
  ∀ (bs : List U8) (i : Instr) (rest : List U8),
    decode bs = .request i rest → i.wellFormed = true ∧ bs = encode i ++ rest

/-- 30_encoding.md R82, R83: the request port is self-delimiting. The opcode, and the count where the
format has one, tell the length of the request; it is performed when its last byte has arrived; the
bytes after it belong to the next; a reserved opcode is a request of one byte. -/
def Obligations.RequestIsCompleteAtItsLastByte : Prop :=
  ∀ bs : List U8,
    (decode bs = .incomplete ↔ bs.length < requestSize bs) ∧
    (∀ i rest, decode bs = .request i rest → rest = bs.drop (requestSize bs)) ∧
    (∀ op rest, decode bs = .reserved op rest → requestSize bs = 1 ∧ bs = op :: rest)

/-- 30_encoding.md R84: some requests written out byte by byte from R83 and R84. -/
def Obligations.WrittenOutRequestsDecode : Prop :=
  decode [0x01] = .request .crcInit [] ∧
  decode [0x02, 0x41] = .request (.crcUpdate 0x41) [] ∧
  decode [0x10, 0x04, 0x03, 0x00, 0x03, 0x05, 0x00] = .request (.txFrame 0x04 [0x03, 0x05, 0x00]) [] ∧
  decode [0x21, 0x02, 0x00, 0xAA, 0xBB] = .request (.statusUnpack [0xAA, 0xBB]) [] ∧
  decode [0x31, 0x01, 0x00, 0x07] = .request (.layoutLoad [0x07]) [] ∧
  decode [0x33, 0x04, 0x00, 0x01, 0x00, 0x00, 0x00] = .request (.dataUnpack [0x01, 0x00, 0x00, 0x00]) [] ∧
  decode [0x40, 0xA5] = .request (.rxByte 0xA5) [] ∧
  decode [0x41] = .request .rxTick [] ∧
  decode [0x50, 0x0D] = .request (.regRead 0x0D) []

/-- 30_encoding.md R87, 45_control.md R242: exactly the opcodes R87 lists are reserved, and the decoder
takes one byte for such a request. -/
def Obligations.ReservedOpcodesAreOneByteRequests : Prop :=
  ∀ (op : U8) (rest : List U8), decode (op :: rest) = .reserved op rest ↔ ReservedOpcode op

/-- 45_control.md R242: a reserved opcode is answered with `IllegalOperation` and changes nothing, and
the next byte on the port is the opcode of the next request. (`port` and `responses` are the two sides
of the port: log entries 1 and 2.) -/
def Obligations.ReservedOpcodeAnswersIllegalOperation : Prop :=
  ∀ (s : State) (op : U8) (rest : List HostInput),
    ReservedOpcode op → s.port = .byte op :: rest →
    step s = .next { s with port := rest, responses := s.responses ++ [.err .illegalOperation] }

/-- A step runs the decoded instruction: when the bytes on the port decode to a request, the step is
`exec` of it with the request taken from the port (log entry 1). -/
def Obligations.StepRunsTheDecodedRequest : Prop :=
  ∀ (s : State) (i : Instr) (rest : List U8),
    decode (leadingBytes s.port) = .request i rest →
    step s = exec i { s with port := asInput rest ++ afterLeadingBytes s.port }

/-- 20_memory.md R59, 30_encoding.md R82: the encoding of a request on the port is performed as that
request, and what follows it stays on the port, a reset included (log entry 1). -/
def Obligations.StepRunsTheEncodedRequest : Prop :=
  ∀ (s : State) (i : Instr) (rest : List HostInput),
    i.wellFormed = true → s.port = asInput (encode i) ++ rest → step s = exec i { s with port := rest }

/-- 00_scope.md R6, 30_encoding.md R82: while the next request has not arrived whole, the block does
nothing (log entry 1). -/
def Obligations.BlockWaitsForAWholeRequest : Prop :=
  ∀ (s : State) (part : List U8),
    s.port = asInput part → part.length < requestSize part → step s = .next s

/-- 70_reset_and_hazards.md R280, R281: a reset that follows a partly received request (or none)
discards it, gives every element its reset value and returns no response (log entries 1 and 8). -/
def Obligations.ResetDiscardsThePartialRequest : Prop :=
  ∀ (s : State) (part : List U8) (rest : List HostInput),
    part.length < requestSize part → s.port = asInput part ++ .reset :: rest →
    step s = .next { State.reset with port := rest, responses := s.responses }

/-- 10_state.md R36: every element at its reset value. -/
def Obligations.ResetValues : Prop :=
  State.reset.crcAcc = 0xFFFF ∧ State.reset.rxState = .waitSof1 ∧
  (∀ i : Fin 4, State.reset.rxHdr[i] = 0x00) ∧ State.reset.rxLen = 0 ∧ State.reset.rxCount = 0 ∧
  (∀ i : Nat, i < 65535 → State.reset.rxPbuf.read i = 0x00) ∧
  (∀ i : Fin 2, State.reset.rxCbuf[i] = 0x00) ∧ State.reset.rxStallCnt = 0 ∧
  State.reset.layoutValid = false ∧ State.reset.layoutMap = 0 ∧
  (∀ i : Fin 32, State.reset.layoutBits[i] = 0x00) ∧
  State.reset.framesRx = 0 ∧ State.reset.crcErrors = 0 ∧ State.reset.stallAborts = 0 ∧
  State.reset.framesTx = 0

/-- 60_exceptions.md R260: no request leaves the block stuck: every step of every state is a next
state. -/
def Obligations.EveryStepGoesOn : Prop :=
  ∀ s : State, ∃ t : State, step s = .next t

/-- 30_encoding.md R85: an operation hands exactly one response to the host, after the earlier ones; its
first byte is 0x00 for `ok` and a nonzero code, with nothing after it, for `err`. -/
def Obligations.EveryOperationAnswersOnce : Prop :=
  ∀ (i : Instr) (s : State), ∃ (t : State) (r : Response),
    exec i s = .next t ∧ t.responses = s.responses ++ [r] ∧
    ((∃ x, r = .ok x ∧ r.bytes = 0x00 :: x.bytes) ∨
      (∃ e, r = .err e ∧ r.bytes = [e.code] ∧ e.code ≠ 0x00))

/-- 30_encoding.md R86: the result bytes of each operation, and the bits of the flags byte. -/
def Obligations.ResultBytes : Prop :=
  (∀ v : U16, (Result.crc v).bytes = [v.setWidth 8, (v >>> 8).setWidth 8]) ∧
  (∀ f, f.length < 2 ^ 32 → ∃ m : List U8,
    (Result.frameBytes f).bytes = m ++ f ∧ m.length = 4 ∧ fromLe m = f.length) ∧
  (∀ s, (Result.statusPayload s).bytes = s) ∧
  (∀ s : List U8, s.length = 144 → (Result.statusRecord (statusFields s)).bytes = s.take 142) ∧
  Result.done.bytes = [] ∧
  (∀ p, p.length < 2 ^ 16 → ∃ m : List U8,
    (Result.dataPayload p).bytes = m ++ p ∧ m.length = 2 ∧ fromLe m = p.length) ∧
  (∀ (ts map : U32) (v : PerSensor U32),
    (Result.samples ts map v).bytes = le32 ts ++ le32 map ++ (v.toList.map le32).flatten) ∧
  (Result.rx none).bytes = [0x00] ∧
  (∀ f : Frame, ∃ flags : U8,
    (Result.rx (some f)).bytes =
      [0x01, f.version, f.kind] ++ le16 f.length ++ f.payload ++ le16 f.crc ++ [flags] ∧
    flags.getLsbD 0 = f.crcValid ∧ flags.getLsbD 1 = f.kindKnown ∧ flags >>> 2 = 0) ∧
  (Result.tick true).bytes = [0x01] ∧ (Result.tick false).bytes = [0x00] ∧
  (∀ v : U32, (Result.reg v).bytes =
    [v.setWidth 8, (v >>> 8).setWidth 8, (v >>> 16).setWidth 8, (v >>> 24).setWidth 8])

/-! ### Errors, atomicity and the parts of the state -/

/-- 60_exceptions.md R254: an operation that returns `err` writes no state. -/
def Obligations.ErrorsWriteNoState : Prop :=
  ∀ (i : Instr) (s t : State) (e : ErrCode),
    exec i s = .next t → t.responses = s.responses ++ [.err e] →
    t = { s with responses := s.responses ++ [.err e] }

/-- 60_exceptions.md R253: the errors each operation can return, and that each of them is returned for
some operands in some state. -/
def Obligations.OperationsReturnOnlyTheirErrors : Prop :=
  (∀ (i : Instr) (s t : State) (e : ErrCode),
    exec i s = .next t → t.responses = s.responses ++ [.err e] → e ∈ possibleErrors i) ∧
  (∀ (i : Instr) (e : ErrCode), e ∈ possibleErrors i →
    ∃ (j : Instr) (s t : State), j.opcode = i.opcode ∧ exec j s = .next t ∧
      t.responses = s.responses ++ [.err e])

/-- 10_state.md R39: each operation writes only its own part of the state, and its response and its own
part after the step depend on nothing but its own part before it. -/
def Obligations.OperationsTouchDisjointParts : Prop :=
  (∀ (i : Instr) (s : State), ∃ t, exec i s = .next t ∧ Touches i s t) ∧
  (∀ (i : Instr) (s s' : State), SameForOp i s s' →
    ∃ (t t' : State) (r : Response), exec i s = .next t ∧ exec i s' = .next t' ∧
      SameForOp i t t' ∧ t.responses = s.responses ++ [r] ∧ t'.responses = s'.responses ++ [r])

/-- 20_memory.md R57: every operation but RX_BYTE, RX_TICK, CRC_UPDATE and TX_FRAME is idempotent: done
twice it leaves the state as once and answers the same. -/
def Obligations.OtherOperationsAreIdempotent : Prop :=
  ∀ (i : Instr) (s : State), isIdempotent i = true →
    ∃ (t : State) (r : Response), exec i s = .next t ∧ t.responses = s.responses ++ [r] ∧
      exec i t = .next { t with responses := s.responses ++ [r, r] }

/-- 10_state.md R33: what each counter counts, told by the response of the operation; the counters wrap
modulo 2^32 (the addition of 32-bit words), and reset puts each to 0. -/
def Obligations.CountersCountTheirEvents : Prop :=
  (∀ (i : Instr) (s : State), ∃ (t : State) (r : Response),
    exec i s = .next t ∧ t.responses = s.responses ++ [r] ∧
    t.framesRx.toNat = (s.framesRx.toNat + (eventsOf r).framesRx) % 2 ^ 32 ∧
    t.crcErrors.toNat = (s.crcErrors.toNat + (eventsOf r).crcErrors) % 2 ^ 32 ∧
    t.stallAborts.toNat = (s.stallAborts.toNat + (eventsOf r).stallAborts) % 2 ^ 32 ∧
    t.framesTx.toNat = (s.framesTx.toNat + (eventsOf r).framesTx) % 2 ^ 32) ∧
  State.reset.framesRx = 0 ∧ State.reset.crcErrors = 0 ∧ State.reset.stallAborts = 0 ∧
  State.reset.framesTx = 0

/-! ### The CRC generator -/

/-- 40_crc.md R103. -/
def Obligations.CrcInitResult : Prop :=
  encode .crcInit = [0x01] ∧
  ∀ s : State,
    exec .crcInit s =
      .next { s with crcAcc := 0xFFFF, responses := s.responses ++ [.ok (.crc 0xFFFF)] } ∧
    (Response.ok (.crc 0xFFFF)).bytes = [0x00, 0xFF, 0xFF]

/-- 40_crc.md R104; the values are those of R104's corner cases and example. -/
def Obligations.CrcUpdateResult : Prop :=
  ∀ (b : U8) (s : State),
    encode (.crcUpdate b) = [0x02, b] ∧
    exec (.crcUpdate b) s =
      .next { s with
        crcAcc := crcStep s.crcAcc b
        responses := s.responses ++ [.ok (.crc (crcStep s.crcAcc b))] } ∧
    crcStep 0xFFFF 0x41 = 0xB915 ∧ (Response.ok (.crc 0xB915)).bytes = [0x00, 0x15, 0xB9] ∧
    crcStep 0x0000 0x00 = 0x0000 ∧ State.reset.crcAcc = 0xFFFF

/-- 40_crc.md R105: the table-driven form equals the bit-serial form for every value and byte. -/
def Obligations.TableDrivenCrcIsTheBitSerialCrc : Prop :=
  ∀ (c : U16) (b : U8), crcStepByTable c b = crcStep c b

/-- 40_crc.md R107: CRC_INIT and one CRC_UPDATE for each byte leave the CRC of the bytes in `CRC_ACC`
and in the last response, and change nothing else. -/
def Obligations.CrcBytesComputeTheCrc : Prop :=
  ∀ (bs : List U8) (s : State), ∃ rs : List Response,
    execAll (crcBytes bs) s = .next { s with crcAcc := crc16 bs, responses := s.responses ++ rs } ∧
    rs.length = bs.length + 1 ∧ rs.getLast? = some (.ok (.crc (crc16 bs)))

/-- 40_crc.md R108, first part: the CRC is affine. -/
def Obligations.CrcIsAffine : Prop :=
  ∀ a e : List U8, a.length = e.length →
    crc16 (List.zipWith (· ^^^ ·) a e) = crc16 a ^^^ crc0 e

/-- 40_crc.md R108, KI's property: flipping any single bit of a byte sequence changes its CRC. -/
def Obligations.CrcSeesEverySingleBitFlip : Prop :=
  ∀ (s : List U8) (j k : Nat), j < s.length → k < 8 → crc16 (flipBit s j k) ≠ crc16 s

/-! ### The frame encoder -/

/-- 41_tx_framer.md R123 (and R122): for a known kind and a payload that fits, TX_FRAME returns the
frame of 30_encoding.md R70, field by field, counts it, and changes nothing else. -/
def Obligations.TxFrameBuildsTheFrame : Prop :=
  ∀ (kind : U8) (s : List U8) (st : State),
    s.length ≤ 65535 → 1 ≤ kind.toNat → kind.toNat ≤ 5 →
    ∃ f : List U8,
      exec (.txFrame kind s) st =
        .next { st with
          framesTx := st.framesTx + 1
          responses := st.responses ++ [.ok (.frameBytes f)] } ∧
      f.length = 8 + s.length ∧ slice f 0 2 = [0xA5, 0x5A] ∧ byteAt f 2 = 0x01 ∧ byteAt f 3 = kind ∧
      fromLe (slice f 4 6) = s.length ∧ slice f 6 (6 + s.length) = s ∧
      fromLe (slice f (6 + s.length) (8 + s.length)) = (crc16 (slice f 2 (6 + s.length))).toNat

/-- 41_tx_framer.md R121, 60_exceptions.md R255: what TX_FRAME refuses, the length before the kind; on
either nothing is written. -/
def Obligations.TxFrameErrors : Prop :=
  ∀ (kind : U8) (s : List U8) (st : State),
    (65535 < s.length →
      exec (.txFrame kind s) st =
        .next { st with responses := st.responses ++ [.err .payloadTooLong] }) ∧
    (s.length ≤ 65535 → kind.toNat = 0 ∨ 5 < kind.toNat →
      exec (.txFrame kind s) st = .next { st with responses := st.responses ++ [.err .badKind] })

/-! ### The Status codec -/

/-- 42_status.md R140: STATUS_PACK returns the 144 bytes of 30_encoding.md R75 for every record, no field
checked, and writes nothing. -/
def Obligations.StatusPackLaysOutTheRecord : Prop :=
  ∀ (r : StatusRecord) (st : State), ∃ p : List U8,
    exec (.statusPack r) st =
      .next { st with responses := st.responses ++ [.ok (.statusPayload p)] } ∧
    encode (.statusPack r) = 0x20 :: p.take 142 ∧
    p.length = 144 ∧ byteAt p 0 = r.state ∧ byteAt p 1 = r.nSensors ∧
    fromLe (slice p 2 6) = r.activeMap.toNat ∧ fromLe (slice p 6 10) = r.healthMap.toNat ∧
    (∀ i : Fin 32,
      fromLe (slice p (10 + 2 * i.val) (12 + 2 * i.val)) = r.sampRateMap[i].toNat ∧
      byteAt p (74 + i.val) = r.bitsPerSmpMap[i] ∧ byteAt p (106 + i.val) = r.sensorRoleMap[i]) ∧
    fromLe (slice p 138 140) = r.adcFlags.toNat ∧ fromLe (slice p 140 142) = r.reserved.toNat ∧
    byteAt p 142 = 0x00 ∧ byteAt p 143 = 0x00

/-- 42_status.md R141: STATUS_UNPACK reads the fields of a 144-byte payload at their offsets, ignores
the padding, refuses every other length, and writes nothing. -/
def Obligations.StatusUnpackReadsTheRecord : Prop :=
  ∀ (p : List U8) (st : State),
    encode (.statusUnpack p) = 0x21 :: (leBytes 2 p.length ++ p) ∧
    (p.length = 144 → ∃ r : StatusRecord,
      exec (.statusUnpack p) st =
        .next { st with responses := st.responses ++ [.ok (.statusRecord r)] } ∧
      r.state = byteAt p 0 ∧ r.nSensors = byteAt p 1 ∧
      r.activeMap.toNat = fromLe (slice p 2 6) ∧ r.healthMap.toNat = fromLe (slice p 6 10) ∧
      (∀ i : Fin 32,
        r.sampRateMap[i].toNat = fromLe (slice p (10 + 2 * i.val) (12 + 2 * i.val)) ∧
        r.bitsPerSmpMap[i] = byteAt p (74 + i.val) ∧ r.sensorRoleMap[i] = byteAt p (106 + i.val)) ∧
      r.adcFlags.toNat = fromLe (slice p 138 140) ∧ r.reserved.toNat = fromLe (slice p 140 142) ∧
      (∀ q : List U8, q.length = 144 → q.take 142 = p.take 142 →
        exec (.statusUnpack q) st = exec (.statusUnpack p) st)) ∧
    (p.length ≠ 144 →
      exec (.statusUnpack p) st =
        .next { st with responses := st.responses ++ [.err .malformedLength] })

/-- 42_status.md R142: unpacking what was packed gives the record back, and packing what was unpacked
gives the payload back with zero padding. -/
def Obligations.StatusRoundTrip : Prop :=
  (∀ (r : StatusRecord) (s s' : State), ∃ p : List U8,
    exec (.statusPack r) s =
      .next { s with responses := s.responses ++ [.ok (.statusPayload p)] } ∧
    exec (.statusUnpack p) s' =
      .next { s' with responses := s'.responses ++ [.ok (.statusRecord r)] }) ∧
  (∀ (p : List U8) (s s' : State), p.length = 144 → ∃ r : StatusRecord,
    exec (.statusUnpack p) s =
      .next { s with responses := s.responses ++ [.ok (.statusRecord r)] } ∧
    exec (.statusPack r) s' =
      .next { s' with
        responses := s'.responses ++ [.ok (.statusPayload (p.take 142 ++ [0x00, 0x00]))] })

/-! ### The sample layout and the sample packer -/

/-- 43_data_pack.md R162: LAYOUT_SET replaces the whole layout, checks no width, and changes nothing
else. -/
def Obligations.LayoutSetReplacesTheLayout : Prop :=
  ∀ (map : U32) (bits : PerSensor U8) (s : State),
    encode (.layoutSet map bits) = 0x30 :: (le32 map ++ bits.toList) ∧
    exec (.layoutSet map bits) s =
      .next { s with
        layoutMap := map, layoutBits := bits, layoutValid := true
        responses := s.responses ++ [.ok .done] }

/-- 43_data_pack.md R165: LAYOUT_LOAD of a 144-byte payload has the effect of LAYOUT_SET of its map and
widths; any other length is refused and the layout is unchanged. -/
def Obligations.LayoutLoadTakesTheStatusLayout : Prop :=
  ∀ (p : List U8) (s : State),
    encode (.layoutLoad p) = 0x31 :: (leBytes 2 p.length ++ p) ∧
    (p.length = 144 → ∃ (map : U32) (bits : PerSensor U8),
      map.toNat = fromLe (slice p 2 6) ∧ (∀ i : Fin 32, bits[i] = byteAt p (74 + i.val)) ∧
      exec (.layoutLoad p) s =
        .next { s with
          layoutMap := map, layoutBits := bits, layoutValid := true
          responses := s.responses ++ [.ok .done] } ∧
      exec (.layoutLoad p) s = exec (.layoutSet map bits) s) ∧
    (p.length ≠ 144 →
      exec (.layoutLoad p) s =
        .next { s with responses := s.responses ++ [.err .malformedLength] })

/-- 43_data_pack.md R161: the active sensors are the set bits of the map, in ascending order, each
once. -/
def Obligations.ActiveSensorsAreTheSetBitsAscending : Prop :=
  ∀ map : U32,
    (∀ i : Fin 32, i ∈ activeSensors map ↔ Active map i) ∧
    (activeSensors map).Pairwise (fun i j => i.val < j.val)

/-- 43_data_pack.md R179: the field widths. -/
def Obligations.FieldWidthsOfR179 : Prop :=
  ∀ b : U8,
    (1 ≤ b.toNat → b.toNat ≤ 8 → fieldWidth b = 1) ∧ (9 ≤ b.toNat → b.toNat ≤ 16 → fieldWidth b = 2) ∧
    (17 ≤ b.toNat → b.toNat ≤ 24 → fieldWidth b = 3) ∧ (25 ≤ b.toNat → b.toNat ≤ 32 → fieldWidth b = 4)

/-- 43_data_pack.md R185 (with R176 and R180): DATA_PACK answers the errors in their order; otherwise
its payload is the timestamp and one field for each active sensor at its offset, each the low bits of
the value. Nothing else changes. -/
def Obligations.DataPackBuildsThePayload : Prop :=
  ∀ (ts : U32) (v : PerSensor U32) (s : State),
    encode (.dataPack ts v) = 0x32 :: (le32 ts ++ (v.toList.map le32).flatten) ∧
    (s.layoutValid = false →
      exec (.dataPack ts v) s = .next { s with responses := s.responses ++ [.err .missingContext] }) ∧
    (s.layoutValid = true → ¬ WidthsInRange s.layoutMap s.layoutBits →
      exec (.dataPack ts v) s = .next { s with responses := s.responses ++ [.err .badLayout] }) ∧
    (s.layoutValid = true → WidthsInRange s.layoutMap s.layoutBits → ∃ p : List U8,
      exec (.dataPack ts v) s =
        .next { s with responses := s.responses ++ [.ok (.dataPayload p)] } ∧
      p.length = fieldOffset s.layoutMap s.layoutBits 32 ∧ p.length ≤ 132 ∧
      fromLe (slice p 0 4) = ts.toNat ∧
      ∀ i : Fin 32, Active s.layoutMap i →
        let o := fieldOffset s.layoutMap s.layoutBits i.val
        fromLe (slice p o (o + fieldWidth s.layoutBits[i])) =
          v[i].toNat % 2 ^ s.layoutBits[i].toNat)

/-- 43_data_pack.md R190 (with R176): DATA_UNPACK answers the errors in their order; otherwise it gives
the timestamp, the map, and for each active sensor the low bits of its field, unsigned; an inactive
sensor reads 0. Nothing else changes. -/
def Obligations.DataUnpackReadsTheFields : Prop :=
  ∀ (p : List U8) (s : State),
    encode (.dataUnpack p) = 0x33 :: (leBytes 2 p.length ++ p) ∧
    (s.layoutValid = false →
      exec (.dataUnpack p) s = .next { s with responses := s.responses ++ [.err .missingContext] }) ∧
    (s.layoutValid = true → ¬ WidthsInRange s.layoutMap s.layoutBits →
      exec (.dataUnpack p) s = .next { s with responses := s.responses ++ [.err .badLayout] }) ∧
    (s.layoutValid = true → WidthsInRange s.layoutMap s.layoutBits →
      p.length ≠ fieldOffset s.layoutMap s.layoutBits 32 →
      exec (.dataUnpack p) s =
        .next { s with responses := s.responses ++ [.err .malformedLength] }) ∧
    (s.layoutValid = true → WidthsInRange s.layoutMap s.layoutBits →
      p.length = fieldOffset s.layoutMap s.layoutBits 32 → ∃ (ts : U32) (val : PerSensor U32),
      exec (.dataUnpack p) s =
        .next { s with responses := s.responses ++ [.ok (.samples ts s.layoutMap val)] } ∧
      ts.toNat = fromLe (slice p 0 4) ∧
      ∀ i : Fin 32,
        (¬ Active s.layoutMap i → val[i] = 0) ∧
        (Active s.layoutMap i →
          let o := fieldOffset s.layoutMap s.layoutBits i.val
          val[i].toNat =
            fromLe (slice p o (o + fieldWidth s.layoutBits[i])) % 2 ^ s.layoutBits[i].toNat))

/-- 43_data_pack.md R191: DATA_UNPACK of what DATA_PACK returned, the layout unchanged in between, gives
back the timestamp and, for each active sensor, the value cut to its width, which is the value itself
where it fits. -/
def Obligations.DataRoundTrip : Prop :=
  ∀ (ts : U32) (v : PerSensor U32) (s s' : State),
    s.layoutValid = true → WidthsInRange s.layoutMap s.layoutBits → SameLayout s s' →
    ∃ (p : List U8) (val : PerSensor U32),
      exec (.dataPack ts v) s =
        .next { s with responses := s.responses ++ [.ok (.dataPayload p)] } ∧
      exec (.dataUnpack p) s' =
        .next { s' with responses := s'.responses ++ [.ok (.samples ts s.layoutMap val)] } ∧
      ∀ i : Fin 32, Active s.layoutMap i →
        val[i].toNat = v[i].toNat &&& maskBits s.layoutBits[i].toNat ∧
        (v[i].toNat < 2 ^ s.layoutBits[i].toNat → val[i] = v[i])

/-! ### The frame parser -/

/-- 44_rx_parser.md R201 (and R212, R215: a byte clears the stall count). -/
def Obligations.RxByteInWaitSof1 : Prop :=
  ∀ (b : U8) (s : State), s.rxState = .waitSof1 →
    exec (.rxByte b) s =
      .next { s with
        rxState := if b = 0xA5 then .waitSof2 else .waitSof1
        rxStallCnt := 0
        responses := s.responses ++ [.ok (.rx none)] }

/-- 44_rx_parser.md R202: both values of `SOF2_RETEST`, and this hardware's. -/
def Obligations.RxByteInWaitSof2 : Prop :=
  ∀ (b : U8) (s : State), s.rxState = .waitSof2 →
    (∀ p : Params,
      rxByte p b s =
        ({ s with
            rxState :=
              if b = 0x5A then .readHeader
              else if p.sof2Retest = true ∧ b = 0xA5 then .waitSof2 else .waitSof1
            rxCount := if b = 0x5A then 0 else s.rxCount
            rxStallCnt := 0 }, none)) ∧
    exec (.rxByte b) s =
      .next { s with
        rxState := if b = 0x5A then .readHeader else .waitSof1
        rxCount := if b = 0x5A then 0 else s.rxCount
        rxStallCnt := 0
        responses := s.responses ++ [.ok (.rx none)] }

/-- 44_rx_parser.md R203, R204: a header byte is stored and counted; the fourth gives the length and
leads to the payload, or to the CRC where the length is 0. -/
def Obligations.RxByteInReadHeader : Prop :=
  ∀ (b : U8) (s : State), s.rxState = .readHeader →
    (∀ h : s.rxCount.toNat < 3,
      exec (.rxByte b) s =
        .next { s with
          rxHdr := s.rxHdr.set s.rxCount.toNat b
          rxCount := s.rxCount + 1
          rxStallCnt := 0
          responses := s.responses ++ [.ok (.rx none)] }) ∧
    (s.rxCount.toNat = 3 → ∃ len : U16,
      len.toNat = fromLe [s.rxHdr[2], b] ∧
      exec (.rxByte b) s =
        .next { s with
          rxHdr := s.rxHdr.set 3 b
          rxLen := len
          rxCount := 0
          rxState := if len.toNat = 0 then .readCrc else .readPayload
          rxStallCnt := 0
          responses := s.responses ++ [.ok (.rx none)] })

/-- 44_rx_parser.md R206: a payload byte is stored at its own index and at no other, and the last one
leads to the CRC. -/
def Obligations.RxByteInReadPayload : Prop :=
  ∀ (b : U8) (s : State), s.rxState = .readPayload → s.rxCount.toNat < s.rxLen.toNat →
    ∃ buf : Memory,
      buf.read s.rxCount.toNat = b ∧
      (∀ k : Nat, k ≠ s.rxCount.toNat → buf.read k = s.rxPbuf.read k) ∧
      (s.rxCount.toNat + 1 < s.rxLen.toNat →
        exec (.rxByte b) s =
          .next { s with
            rxPbuf := buf
            rxCount := s.rxCount + 1
            rxStallCnt := 0
            responses := s.responses ++ [.ok (.rx none)] }) ∧
      (s.rxCount.toNat + 1 = s.rxLen.toNat →
        exec (.rxByte b) s =
          .next { s with
            rxPbuf := buf
            rxCount := 0
            rxState := .readCrc
            rxStallCnt := 0
            responses := s.responses ++ [.ok (.rx none)] })

/-- 44_rx_parser.md R207, first byte: the CRC's low byte is stored and nothing is emitted. -/
def Obligations.RxByteStoresTheFirstCrcByte : Prop :=
  ∀ (b : U8) (s : State), s.rxState = .readCrc → s.rxCount = 0 →
    exec (.rxByte b) s =
      .next { s with
        rxCbuf := s.rxCbuf.set 0 b
        rxCount := 1
        rxStallCnt := 0
        responses := s.responses ++ [.ok (.rx none)] }

/-- 44_rx_parser.md R208 to R211: the second CRC byte completes the frame. It is emitted whatever its
CRC, version or kind, with its two flags; it is counted, as an error too where the CRC differs; and the
parser searches for the next SOF. -/
def Obligations.RxByteEmitsTheCompletedFrame : Prop :=
  ∀ (b : U8) (s : State), s.rxState = .readCrc → s.rxCount = 1 →
    ∃ f : Frame,
      exec (.rxByte b) s =
        .next { s with
          rxCbuf := s.rxCbuf.set 1 b
          framesRx := s.framesRx + 1
          crcErrors := if f.crcValid = true then s.crcErrors else s.crcErrors + 1
          rxState := .waitSof1
          rxCount := 0
          rxStallCnt := 0
          responses := s.responses ++ [.ok (.rx (some f))] } ∧
      f.version = s.rxHdr[0] ∧ f.kind = s.rxHdr[1] ∧ f.length = s.rxLen ∧
      f.payload.length = s.rxLen.toNat ∧
      (∀ k : Nat, k < s.rxLen.toNat → byteAt f.payload k = s.rxPbuf.read k) ∧
      f.crc.toNat = fromLe [s.rxCbuf[0], b] ∧
      (f.crcValid = true ↔ crc16 (s.rxHdr.toList ++ f.payload) = f.crc) ∧
      (f.kindKnown = true ↔ 1 ≤ s.rxHdr[1].toNat ∧ s.rxHdr[1].toNat ≤ 5)

/-- 60_exceptions.md R256: RX_BYTE and RX_TICK answer `ok` in every state, and write only the parser's
part. -/
def Obligations.FramingIsNeverAnError : Prop :=
  (∀ (b : U8) (s : State), ∃ (t : State) (f : Option Frame),
    exec (.rxByte b) s = .next t ∧ OnlyRxChanges s t ∧ t.rxStallCnt = 0 ∧
    t.responses = s.responses ++ [.ok (.rx f)]) ∧
  (∀ s : State, ∃ (t : State) (a : Bool),
    exec .rxTick s = .next t ∧ OnlyRxChanges s t ∧ t.framesRx = s.framesRx ∧
    t.crcErrors = s.crcErrors ∧ t.rxPbuf = s.rxPbuf ∧ t.responses = s.responses ++ [.ok (.tick a)])

/-- 44_rx_parser.md R215, R216, for every value of the OPEN parameter `STALL_LIMIT`: a tick outside a
frame does nothing, a tick mid-frame counts, and one that reaches the limit aborts the frame. RX_TICK is
that tick at this hardware's parameters. (A count whose next value does not fit 32 bits stands in no
state that meets `Inv`.) -/
def Obligations.RxTickCountsAndAborts : Prop :=
  encode .rxTick = [0x41] ∧
  ∀ s : State,
    (∀ p : Params,
      (s.rxState = .waitSof1 → rxTick p s = ({ s with rxStallCnt := 0 }, false)) ∧
      (s.rxState ≠ .waitSof1 → s.rxStallCnt.toNat + 1 < p.stallLimit.toNat →
        rxTick p s = ({ s with rxStallCnt := s.rxStallCnt + 1 }, false)) ∧
      (s.rxState ≠ .waitSof1 → p.stallLimit.toNat ≤ s.rxStallCnt.toNat + 1 →
        s.rxStallCnt.toNat + 1 < 2 ^ 32 →
        rxTick p s =
          ({ s with
              rxState := .waitSof1
              rxCount := 0
              rxStallCnt := 0
              stallAborts := s.stallAborts + 1 }, true))) ∧
    ∃ (t : State) (a : Bool),
      rxTick Config.params s = (t, a) ∧
      exec .rxTick s = .next { t with responses := s.responses ++ [.ok (.tick a)] }

/-- 44_rx_parser.md R215, 70_reset_and_hazards.md R285: `STALL_LIMIT` ticks mid-frame with no byte
between them abort the frame, at the last of them and not before. -/
def Obligations.StallLimitTicksAbortTheFrame : Prop :=
  ∀ s : State, s.rxState ≠ .waitSof1 → s.rxStallCnt = 0 →
    execAll (rxIdle Config.stallLimit.toNat) s =
      .next { s with
        rxState := .waitSof1
        rxCount := 0
        rxStallCnt := 0
        stallAborts := s.stallAborts + 1
        responses := s.responses ++
          List.replicate (Config.stallLimit.toNat - 1) (.ok (.tick false)) ++ [.ok (.tick true)] }

/-- 10_state.md R36, R38: reset meets the invariant. Its clause on the canonical form of the buffer list
is no rule of the spec but the model's own representation of `RX_PBUF` (log entry 7). -/
def Obligations.ResetMeetsTheInvariant : Prop := Inv Config.params State.reset

/-- 10_state.md R38: every step keeps the invariant: the bounds of `RX_COUNT`, the length the header
gives, the stall count below its limit. The clause on the canonical form of the buffer list is no rule of
the spec but the model's own representation of `RX_PBUF` (log entry 7). -/
def Obligations.EveryStepKeepsTheInvariant : Prop :=
  ∀ s t : State, Inv Config.params s → step s = .next t → Inv Config.params t

/-- 10_state.md R38, 44_rx_parser.md R200 to R212: for both values of `SOF2_RETEST`, the registers and
buffers of the parser hold the bytes of the current frame, and it emits the frame those bytes spell, and
only at its last byte. -/
def Obligations.ParserRefinesTheByteListParser : Prop :=
  ∀ (p : Params) (b : U8) (s : State) (a : FrameParse),
    Represents s a →
    Represents (rxByte p b s).1 (FrameParse.next p.sof2Retest b a).1 ∧
    (rxByte p b s).2 = (FrameParse.next p.sof2Retest b a).2

/-- 44_rx_parser.md R205, R209, R219: from `WaitSOF1`, the bytes of any frame (any version, kind,
payload, also one that holds SOF bytes, and CRC bytes) emit exactly one frame, at the last byte, with
those contents; `crc_valid` tells whether the CRC matches. -/
def Obligations.EveryCompleteFrameIsEmitted : Prop :=
  ∀ (version kind lo hi : U8) (payload : List U8) (s : State),
    payload.length ≤ 65535 → s.rxState = .waitSof1 →
    ∃ (t : State) (f : Frame),
      execAll (rxBytes ([0xA5, 0x5A, version, kind] ++ leBytes 2 payload.length ++ payload ++ [lo, hi])) s =
        .next t ∧
      OnlyRxChanges s t ∧ t.rxState = .waitSof1 ∧
      t.responses = s.responses ++ List.replicate (payload.length + 7) (.ok (.rx none)) ++
        [.ok (.rx (some f))] ∧
      t.framesRx = s.framesRx + 1 ∧ t.stallAborts = s.stallAborts ∧
      t.crcErrors = (if f.crcValid = true then s.crcErrors else s.crcErrors + 1) ∧
      f.version = version ∧ f.kind = kind ∧ f.length.toNat = payload.length ∧ f.payload = payload ∧
      f.crc.toNat = fromLe [lo, hi] ∧
      (f.crcValid = true ↔
        crc16 ([version, kind] ++ leBytes 2 payload.length ++ payload) = f.crc) ∧
      (f.kindKnown = true ↔ 1 ≤ kind.toNat ∧ kind.toNat ≤ 5)

/-- 44_rx_parser.md R218: a frame TX_FRAME returned, fed to the parser from `WaitSOF1`, comes out as it
went in, with `crc_valid` and `kind_known`, and the parser is back in `WaitSOF1`. -/
def Obligations.TransmittedFramesAreReceived : Prop :=
  ∀ (kind : U8) (payload : List U8) (s st : State),
    payload.length ≤ 65535 → 1 ≤ kind.toNat → kind.toNat ≤ 5 → s.rxState = .waitSof1 →
    ∃ (f : List U8) (t : State),
      exec (.txFrame kind payload) st =
        .next { st with
          framesTx := st.framesTx + 1
          responses := st.responses ++ [.ok (.frameBytes f)] } ∧
      execAll (rxBytes f) s = .next t ∧ t.rxState = .waitSof1 ∧
      t.framesRx = s.framesRx + 1 ∧ t.crcErrors = s.crcErrors ∧
      t.responses = s.responses ++ List.replicate (payload.length + 7) (.ok (.rx none)) ++
        [.ok (.rx (some (sentFrame kind payload)))]

/-- 44_rx_parser.md R218, 40_crc.md R108: a transmitted frame with one bit of its version, kind or
payload flipped is still emitted, exactly once, and flagged. -/
def Obligations.SingleBitErrorsAreFlagged : Prop :=
  ∀ (kind : U8) (payload : List U8) (j k : Nat) (s : State),
    payload.length ≤ 65535 → s.rxState = .waitSof1 →
    j < 4 + payload.length → j ≠ 2 → j ≠ 3 → k < 8 →
    ∃ (t : State) (f : Frame),
      execAll (rxBytes (flipBit (frameAround kind payload) (2 + j) k)) s = .next t ∧
      framesIn t.responses = framesIn s.responses ++ [f] ∧ f.crcValid = false ∧
      t.crcErrors = s.crcErrors + 1 ∧ t.rxState = .waitSof1

/-- 44_rx_parser.md R213: the frames emitted depend only on the bytes, not on how they are split into
chunks nor on the operations issued in between, as long as no tick aborts a frame. -/
def Obligations.FramesDependOnlyOnTheBytes : Prop :=
  (∀ (p : Params) (c1 c2 : List U8) (s : State),
    (feed p (c1 ++ c2) s).2 = (feed p c1 s).2 ++ (feed p c2 (feed p c1 s).1).2) ∧
  (∀ (ops : List Instr) (s : State), ∃ (t : State) (rs : List Response),
    execAll ops s = .next t ∧ t.responses = s.responses ++ rs ∧
    (Response.ok (.tick true) ∉ rs →
      framesIn rs =
        (feed Config.params
          (ops.filterMap fun i => match i with | .rxByte b => some b | _ => none) s).2))

/-- 44_rx_parser.md R214 case 1, for both values of `SOF2_RETEST`: garbage without a SOF match emits
nothing, and leaves the parser in `WaitSOF2` exactly when it ends in a run of 0xA5 that is odd in length
(drop) or not empty (re-test), and in `WaitSOF1` otherwise; bytes in which `A5 5A` does not stand hold no
SOF match under either. -/
def Obligations.GarbageEmitsNothing : Prop :=
  ∀ (p : Params) (g : List U8) (s : State), s.rxState = .waitSof1 →
    (NoSofMatch p g s →
      (feed p g s).2 = [] ∧
      (feed p g s).1.rxState =
        (if (p.sof2Retest = false ∧ finalSof1Run g % 2 = 1) ∨ (p.sof2Retest = true ∧ 0 < finalSof1Run g)
          then .waitSof2 else .waitSof1)) ∧
    (NoSofPair g → NoSofMatch p g s)

/-- 44_rx_parser.md R214 cases 1 to 4, for both values of `SOF2_RETEST`: a frame after such garbage is
received, alone and whole, unless the re-test is off and the garbage ends in an odd run of 0xA5; then
the frame's first two bytes are lost and the rest is scanned from `WaitSOF1`. -/
def Obligations.FrameAfterGarbageIsReceived : Prop :=
  ∀ (p : Params) (g : List U8) (kind : U8) (payload : List U8) (s : State),
    s.rxState = .waitSof1 → NoSofMatch p g s → 1 ≤ kind.toNat → kind.toNat ≤ 5 →
    payload.length ≤ 65535 →
    (p.sof2Retest = true ∨ finalSof1Run g % 2 = 0 →
      (feed p (g ++ frameAround kind payload) s).2 = [sentFrame kind payload] ∧
      (feed p (g ++ frameAround kind payload) s).1.rxState = .waitSof1) ∧
    (p.sof2Retest = false → finalSof1Run g % 2 = 1 →
      (feed p (g ++ [0xA5, 0x5A]) s).1.rxState = .waitSof1 ∧
      (feed p (g ++ frameAround kind payload) s).2 =
        (feed p ((frameAround kind payload).drop 2) (feed p (g ++ [0xA5, 0x5A]) s).1).2)

/-- 10_state.md R40: buffer bytes the current frame has not written cannot change any response: two
states that differ only in them answer alike and still differ only in them. -/
def Obligations.StaleBufferBytesAreNotObservable : Prop :=
  ∀ (i : Instr) (s s' : State),
    Inv Config.params s → Inv Config.params s' → forgetStale s = forgetStale s' →
    ∃ t t' : State, exec i s = .next t ∧ exec i s' = .next t' ∧ forgetStale t = forgetStale t' ∧
      t.responses = t'.responses

/-! ### Register read -/

/-- 45_control.md R240, R241: the value of every register, for every state, the numbers that name no
register, and that reading changes nothing. -/
def Obligations.RegReadValues : Prop :=
  ∀ s : State,
    (∀ r : U8, encode (.regRead r) = [0x50, r]) ∧
    let answers (r : U8) (v : U32) : Prop :=
      exec (.regRead r) s = .next { s with responses := s.responses ++ [.ok (.reg v)] }
    answers 0x00 0x00000001 ∧ answers 0x01 (BitVec.ofNat 32 s.crcAcc.toNat) ∧
    answers 0x02 (match s.rxState with
      | .waitSof1 => 0 | .waitSof2 => 1 | .readHeader => 2 | .readPayload => 3 | .readCrc => 4) ∧
    answers 0x03 (BitVec.ofNat 32 s.rxLen.toNat) ∧ answers 0x04 (BitVec.ofNat 32 s.rxCount.toNat) ∧
    answers 0x05 s.rxStallCnt ∧ answers 0x06 s.framesRx ∧ answers 0x07 s.crcErrors ∧
    answers 0x08 s.stallAborts ∧ answers 0x09 s.framesTx ∧
    answers 0x0A (if s.layoutValid = true then 1 else 0) ∧ answers 0x0B s.layoutMap ∧
    answers 0x0C 0 ∧ answers 0x0D Config.stallLimit ∧
    (∀ k : Fin 8, ∃ v : U32, answers (BitVec.ofNat 8 (0x10 + k.val)) v ∧
      v.toNat = fromLe ((s.layoutBits.toList.drop (4 * k.val)).take 4)) ∧
    (∀ r : U8, r.toNat = 0x0E ∨ r.toNat = 0x0F ∨ 0x18 ≤ r.toNat →
      exec (.regRead r) s = .next { s with responses := s.responses ++ [.err .badRegister] })
end

