-- ==== Sys2Proof/Laws/Bytes.lean ====
section
/-! SUPPORT. The little-endian views of byte sequences (spec/00_scope.md R9). -/

namespace Sys2Proof.Machine

@[simp] theorem leBytes_zero (v : Nat) : leBytes 0 v = [] := rfl

theorem leBytes_succ (w v : Nat) : leBytes (w + 1) v = BitVec.ofNat 8 v :: leBytes w (v / 256) := rfl

@[simp] theorem fromLe_nil : fromLe [] = 0 := rfl

@[simp] theorem fromLe_cons (b : U8) (s : List U8) : fromLe (b :: s) = b.toNat + 256 * fromLe s := rfl

@[simp] theorem leBytes_length (w v : Nat) : (leBytes w v).length = w := by
  induction w generalizing v with
  | zero => rfl
  | succ w ih => simp [leBytes_succ, ih]

@[simp] theorem le16_length (v : U16) : (le16 v).length = 2 := leBytes_length _ _

@[simp] theorem le32_length (v : U32) : (le32 v).length = 4 := leBytes_length _ _

/-- `from_le(le_bytes(w, v))` is `v` kept to `w` bytes. -/
theorem fromLe_leBytes_mod (w v : Nat) : fromLe (leBytes w v) = v % 256 ^ w := by
  induction w generalizing v with
  | zero => simp [Nat.mod_one]
  | succ w ih =>
    have h : (256 : Nat) ^ (w + 1) = 256 * 256 ^ w := pow_succ' 256 w
    rw [leBytes_succ, fromLe_cons, ih, BitVec.toNat_ofNat, h, Nat.mod_mul]

/-- R9: for every `v < 2^(8w)`, `from_le(le_bytes(w, v)) = v`. -/
theorem fromLe_leBytes {w v : Nat} (h : v < 256 ^ w) : fromLe (leBytes w v) = v := by
  rw [fromLe_leBytes_mod, Nat.mod_eq_of_lt h]

/-- A byte sequence is the little-endian form of its value. -/
theorem leBytes_fromLe (s : List U8) : leBytes s.length (fromLe s) = s := by
  induction s with
  | nil => rfl
  | cons b s ih =>
    have hb := b.isLt
    rw [List.length_cons, leBytes_succ, fromLe_cons]
    have h1 : (b.toNat + 256 * fromLe s) / 256 = fromLe s := by omega
    rw [h1, ih]
    congr 1
    apply BitVec.eq_of_toNat_eq
    rw [BitVec.toNat_ofNat]
    omega

/-- The value of `w` bytes is below `2^(8w)`. -/
theorem fromLe_lt (s : List U8) : fromLe s < 256 ^ s.length := by
  induction s with
  | nil => simp
  | cons b s ih =>
    have hb := b.isLt
    rw [fromLe_cons, List.length_cons, pow_succ']
    omega

@[simp] theorem fromLe_le16 (v : U16) : fromLe (le16 v) = v.toNat :=
  fromLe_leBytes (by simpa using v.isLt)

@[simp] theorem fromLe_le32 (v : U32) : fromLe (le32 v) = v.toNat :=
  fromLe_leBytes (by simpa using v.isLt)

/-- The two-byte value the parser and the counts use. -/
theorem fromLe_pair (lo hi : U8) : fromLe [lo, hi] = lo.toNat + 256 * hi.toNat := by simp

theorem fromLe_pair_lt (lo hi : U8) : fromLe [lo, hi] < 65536 := by
  have h := fromLe_lt [lo, hi]
  have h2 : (256 : Nat) ^ [lo, hi].length = 65536 := by norm_num
  rwa [h2] at h

/-- A count that fits its u16 comes back from its two bytes. -/
theorem leBytes_two (n : Nat) (h : n < 65536) :
    ∃ lo hi : U8, leBytes 2 n = [lo, hi] ∧ fromLe [lo, hi] = n :=
  ⟨_, _, rfl, fromLe_leBytes (w := 2) (by simpa using h)⟩

@[simp] theorem slice_length (s : List U8) (a b : Nat) :
    (slice s a b).length = min (b - a) (s.length - a) := by simp [slice]

/-- A slice that starts at the length of the first part. -/
theorem slice_append_right (s t : List U8) (n : Nat) (h : s.length = n) (b : Nat) :
    slice (s ++ t) n b = t.take (b - n) := by
  subst h
  simp [slice]

/-- The `w` bytes of a field have its value mod `2^(8w)`, so a field read back is the field written. -/
theorem u16At_leBytes (s t : List U8) (v : U16) (n : Nat) (h : s.length = n) :
    u16At (s ++ le16 v ++ t) n = v := by
  unfold u16At
  rw [List.append_assoc, slice_append_right _ _ _ h]
  have : (le16 v ++ t).take (n + 2 - n) = le16 v := by
    rw [Nat.add_sub_cancel_left, List.take_append_of_le_length (by simp), List.take_of_length_le (by simp)]
  rw [this, fromLe_le16, BitVec.ofNat_toNat, BitVec.setWidth_eq]

theorem u32At_leBytes (s t : List U8) (v : U32) (n : Nat) (h : s.length = n) :
    u32At (s ++ le32 v ++ t) n = v := by
  unfold u32At
  rw [List.append_assoc, slice_append_right _ _ _ h]
  have : (le32 v ++ t).take (n + 4 - n) = le32 v := by
    rw [Nat.add_sub_cancel_left, List.take_append_of_le_length (by simp), List.take_of_length_le (by simp)]
  rw [this, fromLe_le32, BitVec.ofNat_toNat, BitVec.setWidth_eq]

/-- `a & mask(n)` keeps the low `n` bits. -/
theorem and_maskBits (a n : Nat) : a &&& maskBits n = a % 2 ^ n := Nat.and_two_pow_sub_one_eq_mod a n

theorem ceilDiv8_eq (n : Nat) : ceilDiv8 n = (n + 7) / 8 := by
  simp [ceilDiv8, Nat.shiftRight_eq_div_pow]

/-- `n` bits fit in `ceil_div8(n)` bytes. -/
theorem two_pow_le_of_ceilDiv8 (n : Nat) : 2 ^ n ≤ 256 ^ ceilDiv8 n := by
  rw [ceilDiv8_eq, show (256 : Nat) = 2 ^ 8 from rfl, ← pow_mul]
  exact Nat.pow_le_pow_right (by decide) (by omega)

end Sys2Proof.Machine
end

