-- ==== Sys2Proof/Laws/Config.lean ====
section
/-! SUPPORT. What is known of the OPEN parameter: its bound. -/

namespace Sys2Proof.Config

/-- R5: `STALL_LIMIT` is at least 1. -/
theorem params_legal : params.legal := by
  unfold Params.legal params stallLimit
  split
  · decide
  · assumption

theorem stallLimit_pos : 0 < stallLimit.toNat := by
  have h : stallLimit ≠ 0 := params_legal
  have h' : stallLimit.toNat ≠ 0 := fun e => h (BitVec.eq_of_toNat_eq (by simpa using e))
  omega

@[simp] theorem params_stallLimit : params.stallLimit = stallLimit := rfl

@[simp] theorem params_sof2Retest : params.sof2Retest = false := rfl

end Sys2Proof.Config
end

