-- ==== Sys2Proof/Laws/Memory.lean ====
section
/-! SUPPORT. The payload buffer: a byte read back is the byte written, every other byte stands, and every
operation keeps the canonical form. -/

namespace Sys2Proof.Machine

@[simp] theorem Memory.read_nil (a : Nat) : Memory.read [] a = 0x00 := rfl

theorem Memory.read_cons (k : Nat) (b : U8) (m : Memory) (a : Nat) :
    Memory.read ((k, b) :: m) a = if k = a then b else Memory.read m a := rfl

theorem Memory.read_insert (m : Memory) (a : Nat) (b : U8) (x : Nat) :
    Memory.read (Memory.insert a b m) x = if x = a then b else Memory.read m x := by
  induction m with
  | nil => simp [Memory.insert, Memory.read_cons, eq_comm]
  | cons c m ih =>
    obtain ⟨k, c⟩ := c
    unfold Memory.insert
    split
    · simp only [Memory.read_cons]
      split_ifs <;> first | rfl | omega
    · split
      · subst_vars
        simp only [Memory.read_cons]
        split_ifs <;> first | rfl | omega
      · simp only [Memory.read_cons, ih]
        split_ifs <;> first | rfl | omega

theorem Memory.read_erase (m : Memory) (a x : Nat) :
    Memory.read (Memory.erase a m) x = if x = a then 0x00 else Memory.read m x := by
  induction m with
  | nil => simp [Memory.erase]
  | cons c m ih =>
    obtain ⟨k, c⟩ := c
    unfold Memory.erase at ih ⊢
    by_cases h : k = a
    · subst h
      simp only [List.filter_cons, ne_eq, not_true_eq_false, decide_false, Bool.false_eq_true,
        if_false, ih, Memory.read_cons]
      split
      · rfl
      · rw [if_neg (by omega)]
    · simp only [List.filter_cons, ne_eq, h, not_false_eq_true, decide_true, if_true, ih,
        Memory.read_cons]
      split_ifs <;> first | rfl | omega

/-- A write inside the array: the byte is there, every other byte stands. -/
theorem Memory.read_write (m : Memory) (a : Nat) (b : U8) (x : Nat) (h : a < Config.rxBufCap) :
    Memory.read (m.write a b) x = if x = a then b else Memory.read m x := by
  unfold Memory.write
  rw [if_pos h]
  split
  · subst_vars
    exact Memory.read_erase m a x
  · exact Memory.read_insert m a b x

@[simp] theorem Memory.read_write_same (m : Memory) (a : Nat) (b : U8) (h : a < Config.rxBufCap) :
    Memory.read (m.write a b) a = b := by simp [Memory.read_write m a b a h]

theorem Memory.read_write_other (m : Memory) (a : Nat) (b : U8) (x : Nat) (hx : x ≠ a) :
    Memory.read (m.write a b) x = Memory.read m x := by
  by_cases h : a < Config.rxBufCap
  · rw [Memory.read_write m a b x h, if_neg hx]
  · simp [Memory.write, h]

/-! ### The canonical form -/

/-- The form as a property of all entries. -/
theorem Memory.wf_iff (m : Memory) :
    m.wf = true ↔
      m.Pairwise (fun c d => c.1 < d.1) ∧ ∀ c ∈ m, c.1 < Config.rxBufCap ∧ c.2 ≠ 0x00 := by
  induction m with
  | nil => simp [Memory.wf]
  | cons c m ih =>
    obtain ⟨k, b⟩ := c
    cases m with
    | nil => simp [Memory.wf]
    | cons d m =>
      obtain ⟨k', b'⟩ := d
      simp only [Memory.wf, Bool.and_eq_true, decide_eq_true_eq, ih, List.pairwise_cons,
        List.mem_cons, forall_eq_or_imp]
      constructor
      · rintro ⟨⟨hk, hb⟩, ⟨hp, hq⟩, ⟨hc, hb'⟩, hall⟩
        exact ⟨⟨⟨hk, fun c hc => lt_trans hk (hp c hc)⟩, hp, hq⟩, ⟨lt_trans hk hc, hb⟩, ⟨hc, hb'⟩, hall⟩
      · rintro ⟨⟨⟨hk, _⟩, hp, hq⟩, ⟨_, hb⟩, hcb, hall⟩
        exact ⟨⟨hk, hb⟩, ⟨hp, hq⟩, hcb, hall⟩

theorem Memory.mem_insert {m : Memory} {a : Nat} {b : U8} {c : Host.Cell}
    (h : c ∈ Memory.insert a b m) : c = (a, b) ∨ c ∈ m := by
  induction m with
  | nil => simpa [Memory.insert] using h
  | cons d m ih =>
    obtain ⟨k, d⟩ := d
    unfold Memory.insert at h
    split at h
    · simpa using h
    · split at h
      · rcases List.mem_cons.mp h with h | h
        · exact .inl h
        · exact .inr (List.mem_cons_of_mem _ h)
      · rcases List.mem_cons.mp h with h | h
        · exact .inr (h ▸ List.mem_cons_self)
        · exact (ih h).imp id (List.mem_cons_of_mem _)

theorem Memory.insert_pairwise {m : Memory} (a : Nat) (b : U8)
    (h : m.Pairwise (fun c d => c.1 < d.1)) :
    (Memory.insert a b m).Pairwise (fun c d => c.1 < d.1) := by
  induction m with
  | nil => simp [Memory.insert]
  | cons d m ih =>
    obtain ⟨k, d⟩ := d
    obtain ⟨hd, hm⟩ := List.pairwise_cons.mp h
    unfold Memory.insert
    split
    · rename_i hak
      refine List.pairwise_cons.mpr ⟨fun c hc => ?_, h⟩
      rcases List.mem_cons.mp hc with rfl | hc
      · exact hak
      · exact lt_trans hak (hd c hc)
    · split
      · subst_vars
        exact List.pairwise_cons.mpr ⟨hd, hm⟩
      · refine List.pairwise_cons.mpr ⟨fun c hc => ?_, ih hm⟩
        rcases Memory.mem_insert hc with rfl | hc
        · simp only; omega
        · exact hd c hc

/-- A write keeps the canonical form. -/
theorem Memory.write_wf (m : Memory) (a : Nat) (b : U8) (h : m.wf = true) :
    (m.write a b).wf = true := by
  rw [Memory.wf_iff] at h ⊢
  obtain ⟨hp, hall⟩ := h
  unfold Memory.write
  split
  · rename_i ha
    split
    · exact ⟨hp.filter _, fun c hc => hall c (List.mem_of_mem_filter hc)⟩
    · rename_i hb
      refine ⟨Memory.insert_pairwise a b hp, fun c hc => ?_⟩
      rcases Memory.mem_insert hc with rfl | hc
      · exact ⟨ha, hb⟩
      · exact hall c hc
  · exact ⟨hp, hall⟩

/-- The buffer after reset has the canonical form. -/
theorem Memory.reset_wf : Memory.wf State.reset.rxPbuf = true := rfl

/-! ### The first bytes -/

@[simp] theorem Memory.firstBytes_length (m : Memory) (n : Nat) : (m.firstBytes n).length = n := by
  simp [Memory.firstBytes]

@[simp] theorem Memory.firstBytes_zero (m : Memory) : m.firstBytes 0 = [] := rfl

theorem Memory.firstBytes_succ (m : Memory) (n : Nat) :
    m.firstBytes (n + 1) = m.firstBytes n ++ [m.read n] := by
  simp [Memory.firstBytes, List.range_succ]

theorem Memory.firstBytes_congr {m m' : Memory} {n : Nat} (h : ∀ k < n, m.read k = m'.read k) :
    m.firstBytes n = m'.firstBytes n := by
  unfold Memory.firstBytes
  exact List.map_congr_left fun k hk => h k (List.mem_range.mp hk)

/-- Storing byte `n` after the first `n` bytes makes the first `n + 1` bytes. -/
theorem Memory.firstBytes_write (m : Memory) (n : Nat) (b : U8) (h : n < Config.rxBufCap) :
    (m.write n b).firstBytes (n + 1) = m.firstBytes n ++ [b] := by
  rw [Memory.firstBytes_succ, Memory.read_write_same m n b h]
  congr 1
  exact Memory.firstBytes_congr fun k hk => Memory.read_write_other m n b k (by omega)

end Sys2Proof.Machine
end

