-- ==== Sys2Proof/Laws/State.lean ====
section
/-! SUPPORT. What each named update of the state does to each field, so that no later proof unfolds a
record update. -/

namespace Sys2Proof.Machine

/-! ### State.respond -/

@[simp] theorem State.respond_crcAcc (s : State) (r : Response) : (s.respond r).crcAcc = s.crcAcc := rfl
@[simp] theorem State.respond_rxState (s : State) (r : Response) : (s.respond r).rxState = s.rxState := rfl
@[simp] theorem State.respond_rxHdr (s : State) (r : Response) : (s.respond r).rxHdr = s.rxHdr := rfl
@[simp] theorem State.respond_rxLen (s : State) (r : Response) : (s.respond r).rxLen = s.rxLen := rfl
@[simp] theorem State.respond_rxCount (s : State) (r : Response) : (s.respond r).rxCount = s.rxCount := rfl
@[simp] theorem State.respond_rxPbuf (s : State) (r : Response) : (s.respond r).rxPbuf = s.rxPbuf := rfl
@[simp] theorem State.respond_rxCbuf (s : State) (r : Response) : (s.respond r).rxCbuf = s.rxCbuf := rfl
@[simp] theorem State.respond_rxStallCnt (s : State) (r : Response) : (s.respond r).rxStallCnt = s.rxStallCnt := rfl
@[simp] theorem State.respond_layoutValid (s : State) (r : Response) : (s.respond r).layoutValid = s.layoutValid := rfl
@[simp] theorem State.respond_layoutMap (s : State) (r : Response) : (s.respond r).layoutMap = s.layoutMap := rfl
@[simp] theorem State.respond_layoutBits (s : State) (r : Response) : (s.respond r).layoutBits = s.layoutBits := rfl
@[simp] theorem State.respond_framesRx (s : State) (r : Response) : (s.respond r).framesRx = s.framesRx := rfl
@[simp] theorem State.respond_crcErrors (s : State) (r : Response) : (s.respond r).crcErrors = s.crcErrors := rfl
@[simp] theorem State.respond_stallAborts (s : State) (r : Response) : (s.respond r).stallAborts = s.stallAborts := rfl
@[simp] theorem State.respond_framesTx (s : State) (r : Response) : (s.respond r).framesTx = s.framesTx := rfl
@[simp] theorem State.respond_port (s : State) (r : Response) : (s.respond r).port = s.port := rfl
@[simp] theorem State.respond_responses (s : State) (r : Response) :
    (s.respond r).responses = s.responses ++ [r] := rfl

/-! ### State.loadLayout -/

@[simp] theorem State.loadLayout_crcAcc (s : State) (m : U32) (w : PerSensor U8) :
    (s.loadLayout m w).crcAcc = s.crcAcc := rfl
@[simp] theorem State.loadLayout_rxState (s : State) (m : U32) (w : PerSensor U8) :
    (s.loadLayout m w).rxState = s.rxState := rfl
@[simp] theorem State.loadLayout_rxHdr (s : State) (m : U32) (w : PerSensor U8) :
    (s.loadLayout m w).rxHdr = s.rxHdr := rfl
@[simp] theorem State.loadLayout_rxLen (s : State) (m : U32) (w : PerSensor U8) :
    (s.loadLayout m w).rxLen = s.rxLen := rfl
@[simp] theorem State.loadLayout_rxCount (s : State) (m : U32) (w : PerSensor U8) :
    (s.loadLayout m w).rxCount = s.rxCount := rfl
@[simp] theorem State.loadLayout_rxPbuf (s : State) (m : U32) (w : PerSensor U8) :
    (s.loadLayout m w).rxPbuf = s.rxPbuf := rfl
@[simp] theorem State.loadLayout_rxCbuf (s : State) (m : U32) (w : PerSensor U8) :
    (s.loadLayout m w).rxCbuf = s.rxCbuf := rfl
@[simp] theorem State.loadLayout_rxStallCnt (s : State) (m : U32) (w : PerSensor U8) :
    (s.loadLayout m w).rxStallCnt = s.rxStallCnt := rfl
@[simp] theorem State.loadLayout_layoutValid (s : State) (m : U32) (w : PerSensor U8) :
    (s.loadLayout m w).layoutValid = true := rfl
@[simp] theorem State.loadLayout_layoutMap (s : State) (m : U32) (w : PerSensor U8) :
    (s.loadLayout m w).layoutMap = m := rfl
@[simp] theorem State.loadLayout_layoutBits (s : State) (m : U32) (w : PerSensor U8) :
    (s.loadLayout m w).layoutBits = w := rfl
@[simp] theorem State.loadLayout_framesRx (s : State) (m : U32) (w : PerSensor U8) :
    (s.loadLayout m w).framesRx = s.framesRx := rfl
@[simp] theorem State.loadLayout_crcErrors (s : State) (m : U32) (w : PerSensor U8) :
    (s.loadLayout m w).crcErrors = s.crcErrors := rfl
@[simp] theorem State.loadLayout_stallAborts (s : State) (m : U32) (w : PerSensor U8) :
    (s.loadLayout m w).stallAborts = s.stallAborts := rfl
@[simp] theorem State.loadLayout_framesTx (s : State) (m : U32) (w : PerSensor U8) :
    (s.loadLayout m w).framesTx = s.framesTx := rfl
@[simp] theorem State.loadLayout_port (s : State) (m : U32) (w : PerSensor U8) :
    (s.loadLayout m w).port = s.port := rfl
@[simp] theorem State.loadLayout_responses (s : State) (m : U32) (w : PerSensor U8) :
    (s.loadLayout m w).responses = s.responses := rfl

/-! ### State.resetInput -/

@[simp] theorem State.resetInput_crcAcc (s : State) (rest : List HostInput) :
    (s.resetInput rest).crcAcc = State.reset.crcAcc := rfl
@[simp] theorem State.resetInput_rxState (s : State) (rest : List HostInput) :
    (s.resetInput rest).rxState = State.reset.rxState := rfl
@[simp] theorem State.resetInput_rxHdr (s : State) (rest : List HostInput) :
    (s.resetInput rest).rxHdr = State.reset.rxHdr := rfl
@[simp] theorem State.resetInput_rxLen (s : State) (rest : List HostInput) :
    (s.resetInput rest).rxLen = State.reset.rxLen := rfl
@[simp] theorem State.resetInput_rxCount (s : State) (rest : List HostInput) :
    (s.resetInput rest).rxCount = State.reset.rxCount := rfl
@[simp] theorem State.resetInput_rxPbuf (s : State) (rest : List HostInput) :
    (s.resetInput rest).rxPbuf = State.reset.rxPbuf := rfl
@[simp] theorem State.resetInput_rxCbuf (s : State) (rest : List HostInput) :
    (s.resetInput rest).rxCbuf = State.reset.rxCbuf := rfl
@[simp] theorem State.resetInput_rxStallCnt (s : State) (rest : List HostInput) :
    (s.resetInput rest).rxStallCnt = State.reset.rxStallCnt := rfl
@[simp] theorem State.resetInput_layoutValid (s : State) (rest : List HostInput) :
    (s.resetInput rest).layoutValid = State.reset.layoutValid := rfl
@[simp] theorem State.resetInput_layoutMap (s : State) (rest : List HostInput) :
    (s.resetInput rest).layoutMap = State.reset.layoutMap := rfl
@[simp] theorem State.resetInput_layoutBits (s : State) (rest : List HostInput) :
    (s.resetInput rest).layoutBits = State.reset.layoutBits := rfl
@[simp] theorem State.resetInput_framesRx (s : State) (rest : List HostInput) :
    (s.resetInput rest).framesRx = State.reset.framesRx := rfl
@[simp] theorem State.resetInput_crcErrors (s : State) (rest : List HostInput) :
    (s.resetInput rest).crcErrors = State.reset.crcErrors := rfl
@[simp] theorem State.resetInput_stallAborts (s : State) (rest : List HostInput) :
    (s.resetInput rest).stallAborts = State.reset.stallAborts := rfl
@[simp] theorem State.resetInput_framesTx (s : State) (rest : List HostInput) :
    (s.resetInput rest).framesTx = State.reset.framesTx := rfl
@[simp] theorem State.resetInput_port (s : State) (rest : List HostInput) :
    (s.resetInput rest).port = rest := rfl
@[simp] theorem State.resetInput_responses (s : State) (rest : List HostInput) :
    (s.resetInput rest).responses = s.responses := rfl

/-! ### stallAbort -/

@[simp] theorem stallAbort_crcAcc (s : State) : (stallAbort s).crcAcc = s.crcAcc := rfl
@[simp] theorem stallAbort_rxState (s : State) : (stallAbort s).rxState = .waitSof1 := rfl
@[simp] theorem stallAbort_rxHdr (s : State) : (stallAbort s).rxHdr = s.rxHdr := rfl
@[simp] theorem stallAbort_rxLen (s : State) : (stallAbort s).rxLen = s.rxLen := rfl
@[simp] theorem stallAbort_rxCount (s : State) : (stallAbort s).rxCount = 0 := rfl
@[simp] theorem stallAbort_rxPbuf (s : State) : (stallAbort s).rxPbuf = s.rxPbuf := rfl
@[simp] theorem stallAbort_rxCbuf (s : State) : (stallAbort s).rxCbuf = s.rxCbuf := rfl
@[simp] theorem stallAbort_rxStallCnt (s : State) : (stallAbort s).rxStallCnt = 0 := rfl
@[simp] theorem stallAbort_layoutValid (s : State) : (stallAbort s).layoutValid = s.layoutValid := rfl
@[simp] theorem stallAbort_layoutMap (s : State) : (stallAbort s).layoutMap = s.layoutMap := rfl
@[simp] theorem stallAbort_layoutBits (s : State) : (stallAbort s).layoutBits = s.layoutBits := rfl
@[simp] theorem stallAbort_framesRx (s : State) : (stallAbort s).framesRx = s.framesRx := rfl
@[simp] theorem stallAbort_crcErrors (s : State) : (stallAbort s).crcErrors = s.crcErrors := rfl
@[simp] theorem stallAbort_stallAborts (s : State) : (stallAbort s).stallAborts = s.stallAborts + 1 := rfl
@[simp] theorem stallAbort_framesTx (s : State) : (stallAbort s).framesTx = s.framesTx := rfl
@[simp] theorem stallAbort_port (s : State) : (stallAbort s).port = s.port := rfl
@[simp] theorem stallAbort_responses (s : State) : (stallAbort s).responses = s.responses := rfl

/-! ### State.withFetchWord -/

@[simp] theorem State.withFetchWord_crcAcc (s : State) (nbits w : Nat) :
    (s.withFetchWord nbits w).crcAcc = s.crcAcc := rfl
@[simp] theorem State.withFetchWord_rxState (s : State) (nbits w : Nat) :
    (s.withFetchWord nbits w).rxState = s.rxState := rfl
@[simp] theorem State.withFetchWord_rxHdr (s : State) (nbits w : Nat) :
    (s.withFetchWord nbits w).rxHdr = s.rxHdr := rfl
@[simp] theorem State.withFetchWord_rxLen (s : State) (nbits w : Nat) :
    (s.withFetchWord nbits w).rxLen = s.rxLen := rfl
@[simp] theorem State.withFetchWord_rxCount (s : State) (nbits w : Nat) :
    (s.withFetchWord nbits w).rxCount = s.rxCount := rfl
@[simp] theorem State.withFetchWord_rxPbuf (s : State) (nbits w : Nat) :
    (s.withFetchWord nbits w).rxPbuf = s.rxPbuf := rfl
@[simp] theorem State.withFetchWord_rxCbuf (s : State) (nbits w : Nat) :
    (s.withFetchWord nbits w).rxCbuf = s.rxCbuf := rfl
@[simp] theorem State.withFetchWord_rxStallCnt (s : State) (nbits w : Nat) :
    (s.withFetchWord nbits w).rxStallCnt = s.rxStallCnt := rfl
@[simp] theorem State.withFetchWord_layoutValid (s : State) (nbits w : Nat) :
    (s.withFetchWord nbits w).layoutValid = s.layoutValid := rfl
@[simp] theorem State.withFetchWord_layoutMap (s : State) (nbits w : Nat) :
    (s.withFetchWord nbits w).layoutMap = s.layoutMap := rfl
@[simp] theorem State.withFetchWord_layoutBits (s : State) (nbits w : Nat) :
    (s.withFetchWord nbits w).layoutBits = s.layoutBits := rfl
@[simp] theorem State.withFetchWord_framesRx (s : State) (nbits w : Nat) :
    (s.withFetchWord nbits w).framesRx = s.framesRx := rfl
@[simp] theorem State.withFetchWord_crcErrors (s : State) (nbits w : Nat) :
    (s.withFetchWord nbits w).crcErrors = s.crcErrors := rfl
@[simp] theorem State.withFetchWord_stallAborts (s : State) (nbits w : Nat) :
    (s.withFetchWord nbits w).stallAborts = s.stallAborts := rfl
@[simp] theorem State.withFetchWord_framesTx (s : State) (nbits w : Nat) :
    (s.withFetchWord nbits w).framesTx = s.framesTx := rfl
@[simp] theorem State.withFetchWord_port (s : State) (nbits w : Nat) :
    (s.withFetchWord nbits w).port = asInput (tableBytes nbits w) ++ s.port := rfl
@[simp] theorem State.withFetchWord_responses (s : State) (nbits w : Nat) :
    (s.withFetchWord nbits w).responses = s.responses := rfl

end Sys2Proof.Machine
end

