-- ==== Sys2Proof/Laws/Ops.lean ====
section
/-! SUPPORT. The two ways an operation ends. -/

namespace Sys2Proof.Machine

@[simp] theorem ret_eq_next (r : Result) (s t : State) :
    ret r s = .next t ↔ t = s.respond (.ok r) := by
  unfold ret
  constructor
  · intro h; cases h; rfl
  · rintro rfl; rfl

@[simp] theorem raise_eq_next (e : ErrCode) (s t : State) :
    raise e s = .next t ↔ t = s.respond (.err e) := by
  unfold raise
  constructor
  · intro h; cases h; rfl
  · rintro rfl; rfl

/-- R254: after `raise` every field but the responses is as before. -/
theorem raise_keeps (e : ErrCode) (s : State) :
    raise e s = .next { s with responses := s.responses ++ [.err e] } := rfl

theorem ret_adds (r : Result) (s : State) :
    ret r s = .next { s with responses := s.responses ++ [.ok r] } := rfl

end Sys2Proof.Machine
end

