-- ==== Sys2Proof/Laws/Control.lean ====
section
/-! SUPPORT. The register map. -/

namespace Sys2Proof.Machine

/-- The number of a register (spec/10_state.md R35). -/
def Register.number : Register → U8
  | .version => 0x00
  | .crcAcc => 0x01
  | .rxState => 0x02
  | .rxLen => 0x03
  | .rxCount => 0x04
  | .rxStallCnt => 0x05
  | .framesRx => 0x06
  | .crcErrors => 0x07
  | .stallAborts => 0x08
  | .framesTx => 0x09
  | .layoutCtrl => 0x0A
  | .layoutMap => 0x0B
  | .config => 0x0C
  | .stallLimit => 0x0D
  | .layoutBits k => BitVec.ofNat 8 (0x10 + k.val)

/-- Every register has its number. -/
theorem Register.ofNumber_number (g : Register) : Register.ofNumber g.number = some g := by
  cases g with
  | layoutBits k => revert k; decide
  | _ => decide

/-- REG_READ has two outcomes: the value of the register the number names, or `BadRegister`. -/
theorem execRegRead_cases (r : U8) (s : State) :
    (∃ g, Register.ofNumber r = some g ∧
      execRegRead r s = ret (.reg (readRegister Config.params s g)) s) ∨
    (Register.ofNumber r = none ∧ execRegRead r s = raise .badRegister s) := by
  unfold execRegRead
  cases h : Register.ofNumber r with
  | none => exact .inr ⟨rfl, rfl⟩
  | some g => exact .inl ⟨g, rfl, rfl⟩

end Sys2Proof.Machine
end

