-- ==== Sys2Proof/Laws/Crc16.lean ====
section
/-! SUPPORT. The CRC over sequences, and its linearity over GF(2). -/

namespace Sys2Proof.Machine

@[simp] theorem crcFrom_nil (c : U16) : crcFrom c [] = c := rfl

@[simp] theorem crcFrom_cons (c : U16) (b : U8) (s : List U8) :
    crcFrom c (b :: s) = crcFrom (crcStep c b) s := rfl

theorem crcFrom_append (c : U16) (s t : List U8) : crcFrom c (s ++ t) = crcFrom (crcFrom c s) t :=
  List.foldl_append

/-- R102: the CRC of no bytes. -/
@[simp] theorem crc16_nil : crc16 [] = 0xFFFF := rfl

theorem crc16_append_byte (s : List U8) (b : U8) : crc16 (s ++ [b]) = crcStep (crc16 s) b := by
  simp [crc16, crcFrom_append]

/-- One shift is linear over GF(2). -/
theorem crcShift_xor (c d : U16) : crcShift (c ^^^ d) = crcShift c ^^^ crcShift d := by
  unfold crcShift
  rw [BitVec.getLsbD_xor, BitVec.shiftLeft_xor_distrib]
  cases c.getLsbD 15 <;> cases d.getLsbD 15
  · simp
  · simp [BitVec.xor_assoc]
  · simp only [Bool.xor_false, if_true, Bool.false_eq_true, if_false]
    rw [BitVec.xor_assoc, BitVec.xor_assoc, BitVec.xor_comm (d <<< 1)]
  · simp only [Bool.xor_self, Bool.false_eq_true, if_false, if_true]
    rw [BitVec.xor_assoc, ← BitVec.xor_assoc Config.crcPolynomial, BitVec.xor_comm Config.crcPolynomial,
      BitVec.xor_assoc, BitVec.xor_self, BitVec.xor_zero]

theorem crcShifts_xor (n : Nat) (c d : U16) :
    crcShifts n (c ^^^ d) = crcShifts n c ^^^ crcShifts n d := by
  induction n generalizing c d with
  | zero => rfl
  | succ n ih =>
    change crcShifts n (crcShift (c ^^^ d)) = crcShifts n (crcShift c) ^^^ crcShifts n (crcShift d)
    rw [crcShift_xor, ih]

/-- `crc_step` is linear over GF(2) in the register and the byte together. -/
theorem crcStep_xor (c d : U16) (a b : U8) :
    crcStep (c ^^^ d) (a ^^^ b) = crcStep c a ^^^ crcStep d b := by
  unfold crcStep
  rw [← crcShifts_xor, BitVec.setWidth_xor, BitVec.shiftLeft_xor_distrib]
  congr 1
  ac_rfl

end Sys2Proof.Machine
end

