-- ==== Sys2Proof/Laws/DataPack.lean ====
section
/-! SUPPORT. The sample layout and its fields. -/

namespace Sys2Proof.Machine

theorem mem_activeSensors (map : U32) (i : Fin 32) :
    i ∈ activeSensors map ↔ map.getLsbD i.val = true := by
  simp [activeSensors]

/-- R175: `layout_ok` speaks of the active sensors only. -/
theorem layoutOk_iff (map : U32) (bits : PerSensor U8) :
    layoutOk map bits = true ↔
      ∀ i : Fin 32, map.getLsbD i.val = true → 1 ≤ bits[i].toNat ∧ bits[i].toNat ≤ 32 := by
  simp [layoutOk, mem_activeSensors]

theorem fieldWidth_eq (b : U8) : fieldWidth b = (b.toNat + 7) / 8 := ceilDiv8_eq _

@[simp] theorem sampleField_length (b : U8) (v : U32) : (sampleField b v).length = fieldWidth b :=
  leBytes_length _ _

/-- R180, R190: a field reads back as the value cut to its width. -/
theorem fromLe_sampleField (b : U8) (v : U32) :
    fromLe (sampleField b v) = v.toNat % 2 ^ b.toNat := by
  unfold sampleField
  rw [and_maskBits]
  exact fromLe_leBytes (lt_of_lt_of_le (Nat.mod_lt _ (by positivity)) (two_pow_le_of_ceilDiv8 _))

/-- The value of a field of a legal width. -/
theorem fieldSample_toNat (b : U8) (field : List U8) (h : b.toNat ≤ 32) :
    (fieldSample b field).toNat = fromLe field % 2 ^ b.toNat := by
  unfold fieldSample
  rw [and_maskBits, BitVec.toNat_ofNat]
  apply Nat.mod_eq_of_lt
  exact lt_of_lt_of_le (Nat.mod_lt _ (by positivity)) (Nat.pow_le_pow_right (by decide) h)

/-- The three outcomes of the checks on the layout in use, in the order of R176. -/
theorem layoutError_eq (s : State) :
    (s.layoutValid = false ∧ layoutError s = some .missingContext) ∨
    (s.layoutValid = true ∧ layoutOk s.layoutMap s.layoutBits = false ∧
      layoutError s = some .badLayout) ∨
    (s.layoutValid = true ∧ layoutOk s.layoutMap s.layoutBits = true ∧ layoutError s = none) := by
  unfold layoutError
  cases s.layoutValid <;> cases layoutOk s.layoutMap s.layoutBits <;> simp

end Sys2Proof.Machine
end

