-- ==== Sys2Proof/Laws/Operands.lean ====
section
/-! SUPPORT. The layout of the structured operands. -/

namespace Sys2Proof.Machine

/-- Elements of one width laid end to end: their total length. -/
theorem flatMap_length_const {α : Type} (f : α → List U8) (w : Nat) (l : List α)
    (h : ∀ x ∈ l, (f x).length = w) : (l.flatMap f).length = l.length * w := by
  induction l with
  | nil => simp
  | cons x l ih =>
    rw [List.flatMap_cons, List.length_append, h x List.mem_cons_self,
      ih fun y hy => h y (List.mem_cons_of_mem _ hy), List.length_cons, Nat.succ_mul, Nat.add_comm]

/-- Elements of one width laid end to end: element `i` stands at `i × w`. -/
theorem flatMap_field {α : Type} (f : α → List U8) (w : Nat) (l : List α)
    (h : ∀ x ∈ l, (f x).length = w) (i : Nat) (hi : i < l.length) :
    ((l.flatMap f).drop (i * w)).take w = f l[i] := by
  induction l generalizing i with
  | nil => simp at hi
  | cons x l ih =>
    have hx := h x List.mem_cons_self
    cases i with
    | zero =>
      rw [Nat.zero_mul, List.drop_zero, List.flatMap_cons,
        List.take_append_of_le_length (by omega), List.take_of_length_le (by omega)]
      rfl
    | succ i =>
      rw [List.flatMap_cons, Nat.succ_mul, Nat.add_comm, ← List.drop_drop, List.drop_left' hx]
      exact ih (fun y hy => h y (List.mem_cons_of_mem _ hy)) i (by simpa using hi)

/-- R75: a Status payload is 144 bytes. -/
@[simp] theorem statusBytes_length (r : StatusRecord) : (statusBytes r).length = 144 := by
  unfold statusBytes
  simp only [List.length_append, List.length_cons, List.length_nil, le32_length, le16_length,
    Vector.length_toList]
  rw [flatMap_length_const le16 2 _ fun x _ => le16_length x, Vector.length_toList]

@[simp] theorem sensorBytes_getElem (s : List U8) (o : Nat) (i : Nat) (hi : i < 32) :
    (sensorBytes s o)[i] = byteAt s (o + i) := by simp [sensorBytes]

@[simp] theorem sensorHalves_getElem (s : List U8) (o : Nat) (i : Nat) (hi : i < 32) :
    (sensorHalves s o)[i] = u16At s (o + 2 * i) := by simp [sensorHalves]

@[simp] theorem sensorWords_getElem (s : List U8) (o : Nat) (i : Nat) (hi : i < 32) :
    (sensorWords s o)[i] = u32At s (o + 4 * i) := by simp [sensorWords]

end Sys2Proof.Machine
end

