-- ==== Sys2Proof/Laws/Decode.lean ====
section
/-! SUPPORT. The pieces of the decoder and the encoder. -/

namespace Sys2Proof

open Machine

/-- The opcode byte of an operation selects that operation (R84). -/
@[simp] theorem Opcode.ofByte_code (o : Opcode) : Opcode.ofByte o.code = some o := by
  cases o <;> decide

/-- A byte that selects an operation is its opcode. -/
theorem Opcode.code_of_ofByte {b : U8} {o : Opcode} (h : Opcode.ofByte b = some o) : o.code = b := by
  have := List.find?_some h
  simpa using this

/-- R84: no two operations share an opcode. -/
theorem Opcode.code_injective {o o' : Opcode} (h : o.code = o'.code) : o = o' := by
  have h1 := Opcode.ofByte_code o
  rw [h, Opcode.ofByte_code] at h1
  exact (Option.some.inj h1).symm

theorem splitBytes_append (a rest : List U8) : splitBytes a.length (a ++ rest) = some (a, rest) := by
  simp [splitBytes]

theorem splitBytes_eq_some {n : Nat} {bs a rest : List U8} (h : splitBytes n bs = some (a, rest)) :
    a.length = n ∧ bs = a ++ rest := by
  unfold splitBytes at h
  split at h
  · cases h
    exact ⟨List.length_take_of_le ‹_›, (List.take_append_drop n bs).symm⟩
  · cases h

/-- A counted operand reads back, whatever follows it. -/
theorem splitCounted_append (s rest : List U8) (h : s.length ≤ Config.maxPayload) :
    splitCounted (leBytes 2 s.length ++ s ++ rest) = some (s, rest) := by
  obtain ⟨lo, hi, h1, h2⟩ := leBytes_two s.length (Nat.lt_succ_of_le h)
  rw [h1]
  simp only [List.cons_append, List.nil_append, splitCounted, h2]
  exact splitBytes_append s rest

theorem splitCounted_eq_some {bs s rest : List U8} (h : splitCounted bs = some (s, rest)) :
    s.length ≤ Config.maxPayload ∧ bs = leBytes 2 s.length ++ s ++ rest := by
  unfold splitCounted at h
  split at h
  · rename_i lo hi more
    obtain ⟨h1, h2⟩ := splitBytes_eq_some h
    have h3 := fromLe_pair_lt lo hi
    refine ⟨Nat.le_of_lt_succ (h1 ▸ h3), ?_⟩
    have h4 : leBytes 2 s.length = [lo, hi] := by
      rw [h1]
      exact leBytes_fromLe [lo, hi]
    rw [h4, h2]
    rfl
  · cases h

/-- The decoder on a defined opcode. -/
theorem decode_code (o : Opcode) (more : List U8) :
    decode (o.code :: more) =
      match decodeOperands o more with
      | none => .incomplete
      | some (i, rest) => .request i rest := by
  cases o <;> rfl

@[simp] theorem decode_nil : decode [] = .incomplete := rfl

end Sys2Proof
end

