-- ==== Sys2Proof/Laws/PerInstr.lean ====
section
/-! SUPPORT. Statements about every instruction as syntax, one lemma for each constructor. -/

namespace Sys2Proof.Laws.EncodingShape

open Sys2Proof Sys2Proof.Machine

/-- The encoding of a request starts with the opcode of R84 and has the length its own first bytes tell
(R82, R83). -/
def Statement (i : Instr) : Prop :=
  i.wellFormed = true →
    (encode i).head? = some i.opcode.code ∧ requestSize (encode i) = (encode i).length

/-- The request size of bytes that start with a defined opcode. -/
theorem requestSize_code (o : Opcode) (more : List U8) :
    requestSize (o.code :: more) =
      match o.format with
      | .o => 1
      | .ob => 2
      | .oks => 4 + fromLe [byteAt (o.code :: more) 2, byteAt (o.code :: more) 3]
      | .os => 3 + fromLe [byteAt (o.code :: more) 1, byteAt (o.code :: more) 2]
      | .of => 143
      | .ol => 37
      | .od => 133 := by
  cases o <;> rfl

/-- The three operations of format `OS`. -/
theorem counted (o : Opcode) (h : o.format = .os) (s : List U8) (hs : s.length ≤ Config.maxPayload) :
    requestSize (o.code :: (leBytes 2 s.length ++ s)) =
      (o.code :: (leBytes 2 s.length ++ s)).length := by
  obtain ⟨lo, hi, h1, h2⟩ := leBytes_two s.length (Nat.lt_succ_of_le hs)
  rw [requestSize_code, h, h1]
  simp only [byteAt, List.cons_append, List.nil_append, List.getD_cons_succ, List.getD_cons_zero, h2,
    List.length_cons]
  omega

theorem crcInit : Statement .crcInit := fun _ => ⟨rfl, rfl⟩

theorem crcUpdate (b : U8) : Statement (.crcUpdate b) := fun _ => ⟨rfl, rfl⟩

theorem txFrame (kind : U8) (s : List U8) : Statement (.txFrame kind s) := by
  intro h
  have hs : s.length ≤ Config.maxPayload := of_decide_eq_true h
  obtain ⟨lo, hi, h1, h2⟩ := leBytes_two s.length (Nat.lt_succ_of_le hs)
  refine ⟨rfl, ?_⟩
  change requestSize (Opcode.txFrame.code :: kind :: (leBytes 2 s.length ++ s)) =
    (Opcode.txFrame.code :: kind :: (leBytes 2 s.length ++ s)).length
  rw [requestSize_code, h1]
  simp only [Opcode.format, byteAt, List.cons_append, List.nil_append, List.getD_cons_succ,
    List.getD_cons_zero, h2, List.length_cons]
  omega

theorem statusPack (f : StatusRecord) : Statement (.statusPack f) := by
  intro _
  refine ⟨rfl, ?_⟩
  simp only [encode, encodeOperands, List.length_cons, List.length_take, statusBytes_length]
  rfl

theorem statusUnpack (s : List U8) : Statement (.statusUnpack s) := fun h =>
  ⟨rfl, counted .statusUnpack rfl s (of_decide_eq_true h)⟩

theorem layoutSet (map : U32) (bits : PerSensor U8) : Statement (.layoutSet map bits) := by
  intro _
  refine ⟨rfl, ?_⟩
  simp only [encode, encodeOperands, List.length_cons, List.length_append, le32_length,
    Vector.length_toList]
  rfl

theorem layoutLoad (s : List U8) : Statement (.layoutLoad s) := fun h =>
  ⟨rfl, counted .layoutLoad rfl s (of_decide_eq_true h)⟩

theorem dataPack (ts : U32) (v : PerSensor U32) : Statement (.dataPack ts v) := by
  intro _
  refine ⟨rfl, ?_⟩
  simp only [encode, encodeOperands, List.length_cons, List.length_append, le32_length,
    flatMap_length_const le32 4 _ fun x _ => le32_length x, Vector.length_toList]
  rfl

theorem dataUnpack (s : List U8) : Statement (.dataUnpack s) := fun h =>
  ⟨rfl, counted .dataUnpack rfl s (of_decide_eq_true h)⟩

theorem rxByte (b : U8) : Statement (.rxByte b) := fun _ => ⟨rfl, rfl⟩

theorem rxTick : Statement .rxTick := fun _ => ⟨rfl, rfl⟩

theorem regRead (r : U8) : Statement (.regRead r) := fun _ => ⟨rfl, rfl⟩

end Sys2Proof.Laws.EncodingShape
end

