-- ==== Sys2Proof/Laws/RxParser.lean ====
section
/-! SUPPORT. What one byte and one tick can do to the parser, said once. -/

namespace Sys2Proof.Machine

/-! ### One byte, by state -/

theorem rxByte_waitSof1 {p : Params} {b : U8} {s : State} (h : s.rxState = .waitSof1) :
    rxByte p b s = (rxWaitSof1 b { s with rxStallCnt := 0 }, none) := by
  simp [rxByte, h]

theorem rxByte_waitSof2 {p : Params} {b : U8} {s : State} (h : s.rxState = .waitSof2) :
    rxByte p b s = (rxWaitSof2 p b { s with rxStallCnt := 0 }, none) := by
  simp [rxByte, h]

theorem rxByte_readHeader {p : Params} {b : U8} {s : State} (h : s.rxState = .readHeader) :
    rxByte p b s = (rxReadHeader b { s with rxStallCnt := 0 }, none) := by
  simp [rxByte, h]

theorem rxByte_readPayload {p : Params} {b : U8} {s : State} (h : s.rxState = .readPayload) :
    rxByte p b s = (rxReadPayload b { s with rxStallCnt := 0 }, none) := by
  simp [rxByte, h]

theorem rxByte_readCrc {p : Params} {b : U8} {s : State} (h : s.rxState = .readCrc) :
    rxByte p b s = rxReadCrc b { s with rxStallCnt := 0 } := by
  simp [rxByte, h]

/-! ### What a byte leaves alone -/

/-- A byte writes only the parser's own fields, the counters of emitted frames among them. -/
theorem rxByte_frame (p : Params) (b : U8) (s : State) :
    (rxByte p b s).1 = { s with
      rxState := (rxByte p b s).1.rxState, rxHdr := (rxByte p b s).1.rxHdr
      rxLen := (rxByte p b s).1.rxLen, rxCount := (rxByte p b s).1.rxCount
      rxPbuf := (rxByte p b s).1.rxPbuf, rxCbuf := (rxByte p b s).1.rxCbuf, rxStallCnt := 0
      framesRx := (rxByte p b s).1.framesRx, crcErrors := (rxByte p b s).1.crcErrors } := by
  unfold rxByte
  cases h : s.rxState <;> simp only [rxWaitSof1, rxWaitSof2, rxReadHeader, rxReadPayload, rxReadCrc]
    <;> split_ifs <;> rfl

/-! ### One tick -/

/-- The three cases of a tick (R215): outside a frame, counting, and the abort. -/
theorem rxTick_cases (p : Params) (s : State) :
    (s.rxState = .waitSof1 ∧ rxTick p s = ({ s with rxStallCnt := 0 }, false)) ∨
    (s.rxState ≠ .waitSof1 ∧ (s.rxStallCnt + 1).toNat < p.stallLimit.toNat ∧
      rxTick p s = ({ s with rxStallCnt := s.rxStallCnt + 1 }, false)) ∨
    (s.rxState ≠ .waitSof1 ∧ p.stallLimit.toNat ≤ (s.rxStallCnt + 1).toNat ∧
      rxTick p s = (stallAbort s, true)) := by
  unfold rxTick
  cases h : s.rxState <;> simp only [true_and, ne_eq, reduceCtorEq, not_false_eq_true, not_true_eq_false,
    false_and, or_false, false_or]
  all_goals
    by_cases hl : p.stallLimit.toNat ≤ (s.rxStallCnt + 1).toNat
    · right
      exact ⟨hl, by rw [if_pos hl]; rfl⟩
    · left
      exact ⟨by omega, by rw [if_neg hl]⟩

/-! ### The meanings -/

theorem execRxByte_eq (b : U8) (s : State) :
    execRxByte b s =
      .next ((rxByte Config.params b s).1.respond (.ok (.rx (rxByte Config.params b s).2))) := rfl

theorem execRxTick_eq (s : State) :
    execRxTick s =
      .next ((rxTick Config.params s).1.respond (.ok (.tick (rxTick Config.params s).2))) := rfl

end Sys2Proof.Machine
end

