-- ==== Sys2Proof/Laws/Step.lean ====
section
/-! SUPPORT. What a step can do, said once, and that every operation answers once. -/

namespace Sys2Proof.Machine

/-! ### The port -/

@[simp] theorem leadingBytes_asInput_append (bs : List U8) (rest : List HostInput) :
    leadingBytes (asInput bs ++ rest) = bs ++ leadingBytes rest := by
  induction bs with
  | nil => rfl
  | cons b bs ih => simpa [asInput, leadingBytes] using ih

@[simp] theorem afterLeadingBytes_asInput_append (bs : List U8) (rest : List HostInput) :
    afterLeadingBytes (asInput bs ++ rest) = afterLeadingBytes rest := by
  induction bs with
  | nil => rfl
  | cons b bs ih => simpa [asInput, afterLeadingBytes] using ih

/-- The port is its leading bytes and what follows them. -/
theorem asInput_leadingBytes (port : List HostInput) :
    asInput (leadingBytes port) ++ afterLeadingBytes port = port := by
  induction port with
  | nil => rfl
  | cons x port ih =>
    cases x with
    | byte b => simpa [asInput, leadingBytes, afterLeadingBytes] using ih
    | reset => rfl

/-! ### Every operation answers once -/

/-- Every operation ends in a next state with one response more. -/
theorem exec_answers (i : Instr) (s : State) :
    ∃ (t : State) (r : Response), exec i s = .next (t.respond r) ∧ t.responses = s.responses ∧
      t.port = s.port := by
  cases i with
  | crcInit => exact ⟨_, _, rfl, rfl, rfl⟩
  | crcUpdate b => exact ⟨_, _, rfl, rfl, rfl⟩
  | txFrame kind p =>
    simp only [exec, execTxFrame]
    split_ifs <;> exact ⟨_, _, rfl, rfl, rfl⟩
  | statusPack f => exact ⟨_, _, rfl, rfl, rfl⟩
  | statusUnpack p =>
    simp only [exec, execStatusUnpack]
    split_ifs <;> exact ⟨_, _, rfl, rfl, rfl⟩
  | layoutSet map bits => exact ⟨_, _, rfl, rfl, rfl⟩
  | layoutLoad p =>
    simp only [exec, execLayoutLoad]
    split_ifs <;> exact ⟨_, _, rfl, rfl, rfl⟩
  | dataPack ts v =>
    simp only [exec, execDataPack]
    split <;> exact ⟨_, _, rfl, rfl, rfl⟩
  | dataUnpack p =>
    simp only [exec, execDataUnpack]
    split
    · exact ⟨_, _, rfl, rfl, rfl⟩
    · split_ifs <;> exact ⟨_, _, rfl, rfl, rfl⟩
  | rxByte b =>
    refine ⟨_, _, execRxByte_eq b s, ?_, ?_⟩ <;> rw [rxByte_frame]
  | rxTick =>
    refine ⟨_, _, execRxTick_eq s, ?_, ?_⟩ <;>
      rcases rxTick_cases Config.params s with ⟨_, h⟩ | ⟨_, _, h⟩ | ⟨_, _, h⟩ <;> rw [h] <;> rfl
  | regRead r =>
    rcases execRegRead_cases r s with ⟨g, _, h⟩ | ⟨_, h⟩
    · exact ⟨_, _, h, rfl, rfl⟩
    · exact ⟨_, _, h, rfl, rfl⟩

/-! ### One step -/

/-- The four things a step can be: a request, the answer to a reserved opcode, a reset, nothing. -/
theorem step_cases {s t : State} (h : step s = .next t) :
    (∃ i rest, fetch s.port = .request i rest ∧ exec i { s with port := rest } = .next t) ∨
    (∃ op rest, fetch s.port = .reserved op rest ∧
      t = { s with port := rest, responses := s.responses ++ [.err .illegalOperation] }) ∨
    (∃ rest, fetch s.port = .reset rest ∧ t = s.resetInput rest) ∨
    (fetch s.port = .idle ∧ t = s) := by
  unfold step at h
  split at h
  · exact .inl ⟨_, _, ‹_›, h⟩
  · cases h
    exact .inr (.inl ⟨_, _, ‹_›, rfl⟩)
  · cases h
    exact .inr (.inr (.inl ⟨_, ‹_›, rfl⟩))
  · cases h
    exact .inr (.inr (.inr ⟨‹_›, rfl⟩))

/-- Two states with the same port take the same request from it. -/
theorem withFetchWord_port (s : State) (nbits w : Nat) :
    leadingBytes (s.withFetchWord nbits w).port = tableBytes nbits w ++ leadingBytes s.port := by
  simp

end Sys2Proof.Machine
end

