-- ==== Sys2Proof/Machine/Asm.lean ====
section
/-! DEFINITION. The assembler form of an operation (spec/30_encoding.md R88): one operation per line,
`MNEMONIC operands`. The text is a list of characters; braces are built from their code points. -/

namespace Sys2Proof.Machine

/-- The mnemonic of an operation (R84). -/
def Opcode.mnemonic : Opcode → List Char
  | .crcInit => "CRC_INIT".toList
  | .crcUpdate => "CRC_UPDATE".toList
  | .txFrame => "TX_FRAME".toList
  | .statusPack => "STATUS_PACK".toList
  | .statusUnpack => "STATUS_UNPACK".toList
  | .layoutSet => "LAYOUT_SET".toList
  | .layoutLoad => "LAYOUT_LOAD".toList
  | .dataPack => "DATA_PACK".toList
  | .dataUnpack => "DATA_UNPACK".toList
  | .rxByte => "RX_BYTE".toList
  | .rxTick => "RX_TICK".toList
  | .regRead => "REG_READ".toList

/-- A hexadecimal digit, capital. -/
def hexDigit (n : Nat) : Char := "0123456789ABCDEF".toList.getD (n % 16) '0'

/-- `w` hexadecimal digits of a number, the most significant first. -/
def hexDigits : Nat → Nat → List Char
  | 0, _ => []
  | w + 1, n => hexDigits w (n / 16) ++ [hexDigit n]

/-- A number in hexadecimal, `0x2A` (R88). -/
def asmNumber (digits n : Nat) : List Char := "0x".toList ++ hexDigits digits n

/-- Items with a separator between them. -/
def separated (sep : List Char) : List (List Char) → List Char
  | [] => []
  | [x] => x
  | x :: xs => x ++ sep ++ separated sep xs

/-- A byte sequence, `[A5 5A 01]` (R88). -/
def asmBytes (s : List U8) : List Char :=
  ['['] ++ separated [' '] (s.map fun b => hexDigits 2 b.toNat) ++ [']']

/-- A 32-element array given sparsely, unlisted elements 0 (R88). -/
def asmArray {n : Nat} (digits : Nat) (v : PerSensor (BitVec n)) : List Char :=
  let listed := (List.finRange 32).filter fun i => v[i] != 0
  let items := listed.map fun i => (toString i.val).toList ++ [':'] ++ asmNumber digits v[i].toNat
  [Char.ofNat 0x7B] ++ separated [',', ' '] items ++ [Char.ofNat 0x7D]

/-- A named operand, `name=value` (R88). -/
def asmNamed (name : String) (value : List Char) : List Char := name.toList ++ ['='] ++ value

/-- The operands of an operation, in the order R88 lists them. -/
def asmOperands : Instr → List (List Char)
  | .crcInit | .rxTick => []
  | .crcUpdate b | .rxByte b | .regRead b => [asmNumber 2 b.toNat]
  | .txFrame kind s => [asmNumber 2 kind.toNat, asmBytes s]
  | .statusPack f =>
    [asmNamed "state" (asmNumber 2 f.state.toNat), asmNamed "n" (asmNumber 2 f.nSensors.toNat),
      asmNamed "active" (asmNumber 8 f.activeMap.toNat),
      asmNamed "health" (asmNumber 8 f.healthMap.toNat),
      asmNamed "rates" (asmArray 4 f.sampRateMap), asmNamed "bits" (asmArray 2 f.bitsPerSmpMap),
      asmNamed "roles" (asmArray 2 f.sensorRoleMap), asmNamed "adc" (asmNumber 4 f.adcFlags.toNat),
      asmNamed "rsv" (asmNumber 4 f.reserved.toNat)]
  | .statusUnpack s | .layoutLoad s | .dataUnpack s => [asmBytes s]
  | .layoutSet map bits =>
    [asmNamed "map" (asmNumber 8 map.toNat), asmNamed "bits" (asmArray 2 bits)]
  | .dataPack ts v => [asmNumber 8 ts.toNat, asmArray 8 v]

/-- The line of an operation (R88). -/
def asmLine (i : Instr) : List Char :=
  separated [' '] (Opcode.mnemonic i.opcode :: match asmOperands i with
    | [] => []
    | ops => [separated [',', ' '] ops])

end Sys2Proof.Machine
end

