-- ==== Sys2Proof/Machine/Assembler.lean ====
section
/-! DEFINITION. Reading the assembler syntax of spec/30_encoding.md R88: one line of text to the
operations it stands for, the pseudo-operations of R89 expanded. Text that R88 gives no meaning to is
none. Log entry 13. -/

namespace Sys2Proof.Machine

/-! ### Characters and pieces -/

/-- A blank between words: a space or a tab. R88 does not say which. DESIGN CHOICE, safe: log entry 13. -/
def isBlank (c : Char) : Bool := c == ' ' || c == '\t'

/-- The text without the blanks before it and after it. -/
def trimmed (t : List Char) : List Char :=
  ((t.dropWhile isBlank).reverse.dropWhile isBlank).reverse

/-- Cuts a text at a separator; one piece where it does not stand. -/
def pieces (sep : Char) : List Char → List (List Char)
  | [] => [[]]
  | c :: t =>
    if c = sep then [] :: pieces sep t
    else match pieces sep t with
      | p :: ps => (c :: p) :: ps
      | [] => [[c]]

/-- The value of a digit in any base up to 16; hexadecimal letters of either case (log entry 13). -/
def digitValue (c : Char) : Option Nat :=
  if '0'.toNat ≤ c.toNat ∧ c.toNat ≤ '9'.toNat then some (c.toNat - '0'.toNat)
  else if 'A'.toNat ≤ c.toNat ∧ c.toNat ≤ 'F'.toNat then some (c.toNat - 'A'.toNat + 10)
  else if 'a'.toNat ≤ c.toNat ∧ c.toNat ≤ 'f'.toNat then some (c.toNat - 'a'.toNat + 10)
  else none

/-- The value of digits in a base, after the value read so far. -/
def digitsValue (base : Nat) : Nat → List Char → Option Nat
  | sofar, [] => some sofar
  | sofar, c :: t =>
    match digitValue c with
    | some d => if d < base then digitsValue base (sofar * base + d) t else none
    | none => none

/-- All the results, if there is one for every item. -/
def collect {α β : Type} (f : α → Option β) : List α → Option (List β)
  | [] => some []
  | a :: as =>
    match f a, collect f as with
    | some b, some bs => some (b :: bs)
    | _, _ => none

/-! ### Operands (R88) -/

/-- A number, `0x2A` or `42`. -/
def readNumber : List Char → Option Nat
  | [] => none
  | [c] => digitsValue 10 0 [c]
  | c :: d :: t =>
    if c = '0' ∧ d = 'x' then (if t = [] then none else digitsValue 16 0 t)
    else digitsValue 10 0 (c :: d :: t)

/-- A number that fits `w` bits. -/
def readWord (w : Nat) (t : List Char) : Option (BitVec w) :=
  match readNumber (trimmed t) with
  | some n => if n < 2 ^ w then some (BitVec.ofNat w n) else none
  | none => none

/-- The text between two brackets. -/
def between (opening closing : Char) (t : List Char) : Option (List Char) :=
  match t with
  | [] => none
  | c :: rest =>
    if c = opening ∧ rest.getLast? = some closing then some rest.dropLast else none

/-- One element of a byte sequence, hexadecimal without `0x`: a value that fits a byte, in any number of
digits (log entry 13). -/
def readByte (t : List Char) : Option U8 :=
  match digitsValue 16 0 t with
  | some n => if n < 256 then some (BitVec.ofNat 8 n) else none
  | none => none

/-- A byte sequence, `[A5 5A 01]`: elements with one or more spaces between them, and spaces beside the
brackets (log entry 13). -/
def readBytes (t : List Char) : Option (List U8) :=
  match between '[' ']' (trimmed t) with
  | some inner => collect readByte ((pieces ' ' inner).filter fun p => p ≠ [])
  | none => none

/-- One listed element of a sparse array, `3:32`; blanks around either number are skipped (log
entry 13). -/
def readElement (w : Nat) (t : List Char) : Option (Nat × BitVec w) :=
  match pieces ':' t with
  | [k, v] =>
    match readNumber (trimmed k), readWord w v with
    | some k, some v => if k < Config.nSensors then some (k, v) else none
    | _, _ => none
  | _ => none

/-- A 32-element array given sparsely, `3:32` for element 3 in braces; unlisted elements are 0. Nothing
between the braces lists no element; an empty element beside a comma (`0:12,,1:8`, `0:12,`) is refused,
and of two elements of one index the last counts: R88 is silent on these. DESIGN CHOICE, safe: log
entry 13. -/
def readArray (w : Nat) (t : List Char) : Option (PerSensor (BitVec w)) :=
  match between (Char.ofNat 0x7B) (Char.ofNat 0x7D) (trimmed t) with
  | some inner =>
    match collect (readElement w) (if trimmed inner = [] then [] else pieces ',' inner) with
    | some listed =>
      some (listed.foldl (fun v e => v.setIfInBounds e.1 e.2) (Vector.replicate 32 0))
    | none => none
  | none => none

/-- The operands of a line: cut at the commas that stand outside brackets and braces. -/
def operandPieces : Nat → List Char → List (List Char)
  | _, [] => [[]]
  | depth, c :: t =>
    if c = ',' ∧ depth = 0 then [] :: operandPieces 0 t
    else
      let deeper := if c = '[' ∨ c = Char.ofNat 0x7B then depth + 1
        else if c = ']' ∨ c = Char.ofNat 0x7D then depth - 1 else depth
      match operandPieces deeper t with
      | p :: ps => (c :: p) :: ps
      | [] => [[c]]

/-- A named operand, `name=value`; blanks around either side are skipped (log entry 13). -/
def readNamed (t : List Char) : Option (List Char × List Char) :=
  let name := t.takeWhile (· ≠ '=')
  match t.drop name.length with
  | _ :: value => some (trimmed name, trimmed value)
  | [] => none

/-- The named operands of a line. A name that is none of `names`, those R88 lists for the operation, is
refused: R88 is silent on it. DESIGN CHOICE, safe: log entry 13. -/
def readNamedOf (names : List String) (ops : List (List Char)) :
    Option (List (List Char × List Char)) :=
  match collect readNamed ops with
  | some named => if named.all fun e => names.any fun n => n.toList == e.1 then some named else none
  | none => none

/-- The value of a named operand; `missing` where the line omits it, and none where it does not read. Of two operands of one name the first counts (log
entry 13). -/
def operandNamed {α : Type} (named : List (List Char × List Char)) (name : String)
    (missing : Option α) (read : List Char → Option α) : Option α :=
  match named.find? fun e => e.1 = name.toList with
  | some e => read e.2
  | none => missing

/-- The register names of spec/10_state.md R35. -/
def registerNames : List (String × Nat) :=
  [("VERSION", 0x00), ("CRC_ACC", 0x01), ("RX_STATE", 0x02), ("RX_LEN", 0x03), ("RX_COUNT", 0x04),
    ("RX_STALL_CNT", 0x05), ("FRAMES_RX", 0x06), ("CRC_ERRORS", 0x07), ("STALL_ABORTS", 0x08),
    ("FRAMES_TX", 0x09), ("LAYOUT_CTRL", 0x0A), ("LAYOUT_MAP", 0x0B), ("CONFIG", 0x0C),
    ("STALL_LIMIT", 0x0D), ("LAYOUT_BITS_0", 0x10), ("LAYOUT_BITS_1", 0x11),
    ("LAYOUT_BITS_2", 0x12), ("LAYOUT_BITS_3", 0x13), ("LAYOUT_BITS_4", 0x14),
    ("LAYOUT_BITS_5", 0x15), ("LAYOUT_BITS_6", 0x16), ("LAYOUT_BITS_7", 0x17)]

/-- A register: a number or a name. -/
def readRegisterName (t : List Char) : Option U8 :=
  match registerNames.find? fun e => e.1.toList = trimmed t with
  | some e => some (BitVec.ofNat 8 e.2)
  | none => readWord 8 t

/-- The operand names of STATUS_PACK (R88). -/
def statusNames : List String :=
  ["state", "n", "active", "health", "rates", "bits", "roles", "adc", "rsv"]

/-- The operand names of LAYOUT_SET (R88). -/
def layoutNames : List String := ["map", "bits"]

/-- The fields of STATUS_PACK; omitted fields are 0. -/
def readStatus (named : List (List Char × List Char)) : Option StatusRecord :=
  match operandNamed named "state" (some 0) (readWord 8), operandNamed named "n" (some 0) (readWord 8),
    operandNamed named "active" (some 0) (readWord 32),
    operandNamed named "health" (some 0) (readWord 32),
    operandNamed named "rates" (some (Vector.replicate 32 0)) (readArray 16),
    operandNamed named "bits" (some (Vector.replicate 32 0)) (readArray 8),
    operandNamed named "roles" (some (Vector.replicate 32 0)) (readArray 8),
    operandNamed named "adc" (some 0) (readWord 16), operandNamed named "rsv" (some 0) (readWord 16) with
  | some state, some n, some active, some health, some rates, some bits, some roles, some adc,
    some rsv => some ⟨state, n, active, health, rates, bits, roles, adc, rsv⟩
  | _, _, _, _, _, _, _, _, _ => none

/-! ### Lines (R88, R89) -/

/-- One operation from its operands. -/
def readOperation (o : Opcode) (ops : List (List Char)) : Option Instr :=
  match o, ops with
  | .crcInit, [] => some .crcInit
  | .rxTick, [] => some .rxTick
  | .crcUpdate, [b] => (readWord 8 b).map .crcUpdate
  | .rxByte, [b] => (readWord 8 b).map .rxByte
  | .regRead, [r] => (readRegisterName r).map .regRead
  | .txFrame, [kind, s] =>
    match readWord 8 kind, readBytes s with
    | some kind, some s => some (.txFrame kind s)
    | _, _ => none
  | .statusUnpack, [s] => (readBytes s).map .statusUnpack
  | .layoutLoad, [s] => (readBytes s).map .layoutLoad
  | .dataUnpack, [s] => (readBytes s).map .dataUnpack
  | .dataPack, [ts, v] =>
    match readWord 32 ts, readArray 32 v with
    | some ts, some v => some (.dataPack ts v)
    | _, _ => none
  | .statusPack, fields =>
    match readNamedOf statusNames fields with
    | some named => (readStatus named).map .statusPack
    | none => none
  | .layoutSet, fields =>
    match readNamedOf layoutNames fields with
    | some named =>
      match operandNamed named "map" none (readWord 32), operandNamed named "bits" none (readArray 8) with
      | some map, some bits => some (.layoutSet map bits)
      | _, _ => none
    | none => none
  | _, _ => none

/-- A pseudo-operation, expanded. -/
def readPseudo (name : List Char) (ops : List (List Char)) : Option (List Instr) :=
  match ops with
  | [x] =>
    if name = "RX_BYTES".toList then (readBytes x).map rxBytes
    else if name = "CRC_BYTES".toList then (readBytes x).map crcBytes
    else if name = "RX_IDLE".toList then (readNumber (trimmed x)).map rxIdle
    else none
  | _ => none

/-- A line of assembler text; a blank line or a line that is only a comment stands for no operation (log
entry 13). -/
def assembleLine (line : List Char) : Option (List Instr) :=
  let text := trimmed (line.takeWhile (· ≠ ';'))
  if text = [] then some []
  else
    let name := text.takeWhile fun c => !isBlank c
    let rest := trimmed (text.drop name.length)
    let ops := if rest = [] then [] else operandPieces 0 rest
    match Opcode.all.find? fun o => Opcode.mnemonic o = name with
    | some o => (readOperation o ops).map fun i => [i]
    | none => readPseudo name ops

end Sys2Proof.Machine
end

