-- ==== Sys2Proof/Tests/Slice0.lean ====
section
/-! SUPPORT. Tests of the model against values written out in spec/ (mostly spec/95_test_vectors.md, whose
section each test names), and for each statement with hypotheses a state and operands that meet them. -/

namespace Sys2Proof.Tests

open Sys2Proof Sys2Proof.Machine

/-! ### Helpers -/

/-- The bytes of the last response. -/
def answer (o : Outcome) : List U8 :=
  match o with
  | .next t => (t.responses.getLast?.map Response.bytes).getD []
  | .fault _ => []
  | .refused _ => []

/-- The state after an outcome, for a look at a field. -/
def after (o : Outcome) : State :=
  match o with
  | .next t => t
  | .fault _ => State.reset
  | .refused _ => State.reset

/-- `n` zero bytes. -/
def zeros (n : Nat) : List U8 := List.replicate n 0x00

/-- An array of 32 given sparsely. -/
def sparse {n : Nat} (l : List (Nat × BitVec n)) : PerSensor (BitVec n) :=
  Vector.ofFn fun i => (l.lookup i.val).getD 0

/-- Reset with a layout loaded. -/
def withLayout (map : U32) (l : List (Nat × U8)) : State := State.reset.loadLayout map (sparse l)

/-- A parser that has the header `01 02 02 00` and the payload `01 02`, `n` CRC bytes in. -/
def inCrc (n : U16) : State :=
  { State.reset with
    rxState := .readCrc, rxHdr := #v[0x01, 0x02, 0x02, 0x00], rxLen := 2, rxCount := n
    rxPbuf := [(0, 0x01), (1, 0x02)], rxCbuf := #v[0x03, 0x00] }

/-- A parser `n` bytes into a payload of 3. -/
def inPayload (n : U16) : State :=
  { State.reset with
    rxState := .readPayload, rxHdr := #v[0x01, 0x02, 0x03, 0x00], rxLen := 3, rxCount := n }

/-- A parser `n` header bytes in. -/
def inHeader (n : U16) : State :=
  { State.reset with rxState := .readHeader, rxHdr := #v[0x01, 0x02, 0x06, 0x00], rxCount := n }

/-- A parser that has seen SOF1. -/
def sawSof1 : State := { State.reset with rxState := .waitSof2 }

/-- The Status payload of V0.1. -/
def scenarioA : List U8 :=
  [0x00, 0x02, 0x03, 0x00, 0x00, 0x00, 0x00, 0x00, 0x00, 0x00, 0xE8, 0x03, 0xF4, 0x01] ++ zeros 130

/-- The record of V4.1. -/
def recordV41 : StatusRecord where
  state := 2
  nSensors := 33
  activeMap := 0x80000001
  healthMap := 0xFFFFFFFE
  sampRateMap := sparse [(0, 1), (31, 65535)]
  bitsPerSmpMap := sparse [(0, 32), (31, 1)]
  sensorRoleMap := sparse [(5, 7)]
  adcFlags := 0x1234
  reserved := 0xBEEF

/-- The payload of V4.1, byte for byte. -/
def payloadV41 : List U8 :=
  [0x02, 0x21, 0x01, 0x00, 0x00, 0x80, 0xFE, 0xFF, 0xFF, 0xFF, 0x01, 0x00] ++ zeros 60 ++
  [0xFF, 0xFF, 0x20] ++ zeros 30 ++ [0x01] ++ zeros 5 ++ [0x07] ++ zeros 26 ++
  [0x34, 0x12, 0xEF, 0xBE, 0x00, 0x00]

/-- A payload one byte too long for the byte form. -/
@[irreducible] def longPayload : List U8 := List.replicate 65536 0x00

theorem longPayload_length : longPayload.length = 65536 := by
  unfold longPayload
  exact List.length_replicate

/-! ### WellFormed: one ill-formed term for each check (R83) -/

theorem test_wf_refuses_long_tx_frame :
    Instr.wellFormed (.txFrame 0x01 longPayload) = false :=
  decide_eq_false (by rw [longPayload_length]; decide)

theorem test_wf_refuses_long_status_unpack :
    Instr.wellFormed (.statusUnpack longPayload) = false :=
  decide_eq_false (by rw [longPayload_length]; decide)

theorem test_wf_refuses_long_layout_load :
    Instr.wellFormed (.layoutLoad longPayload) = false :=
  decide_eq_false (by rw [longPayload_length]; decide)

theorem test_wf_refuses_long_data_unpack :
    Instr.wellFormed (.dataUnpack longPayload) = false :=
  decide_eq_false (by rw [longPayload_length]; decide)

theorem test_wf_admits_a_payload : Instr.wellFormed (.txFrame 0x01 [0xAA]) = true := by decide

/-! ### Decoding: requests written out from R83 and R84 -/

theorem test_decode_crc_init : decode [0x01, 0x77] = .request .crcInit [0x77] := by decide

theorem test_decode_crc_update : decode [0x02, 0x31] = .request (.crcUpdate 0x31) [] := by decide

/-- V3.1. -/
theorem test_decode_tx_frame :
    decode [0x10, 0x04, 0x03, 0x00, 0x03, 0x05, 0x00] =
      .request (.txFrame 0x04 [0x03, 0x05, 0x00]) [] := by decide

/-- V4.1: the request is `20` and the first 142 payload bytes. -/
theorem test_decode_status_pack :
    decode (0x20 :: payloadV41.take 142) = .request (.statusPack recordV41) [] := by decide +kernel

theorem test_decode_status_unpack :
    decode [0x21, 0x03, 0x00, 0x01, 0x02, 0x03] = .request (.statusUnpack [0x01, 0x02, 0x03]) [] := by
  decide

/-- V5. -/
theorem test_decode_layout_set :
    decode ([0x30, 0x0B, 0x00, 0x00, 0x00, 0x0C, 0x08, 0x00, 0x20] ++ zeros 28) =
      .request (.layoutSet 0x0000000B (sparse [(0, 12), (1, 8), (3, 32)])) [] := by decide

theorem test_decode_layout_load :
    decode [0x31, 0x01, 0x00, 0x00] = .request (.layoutLoad [0x00]) [] := by decide

/-- P3: `DATA_PACK 1000, (0: 0xABC, 1: 0x1234)`. -/
theorem test_decode_data_pack :
    decode ([0x32, 0xE8, 0x03, 0x00, 0x00, 0xBC, 0x0A, 0x00, 0x00, 0x34, 0x12, 0x00, 0x00] ++ zeros 120) =
      .request (.dataPack 1000 (sparse [(0, 0xABC), (1, 0x1234)])) [] := by decide +kernel

theorem test_decode_data_unpack :
    decode [0x33, 0x04, 0x00, 0x01, 0x00, 0x00, 0x00] =
      .request (.dataUnpack [0x01, 0x00, 0x00, 0x00]) [] := by decide

theorem test_decode_rx_byte : decode [0x40, 0xA5] = .request (.rxByte 0xA5) [] := by decide

theorem test_decode_rx_tick : decode [0x41] = .request .rxTick [] := by decide

theorem test_decode_reg_read : decode [0x50, 0x0D] = .request (.regRead 0x0D) [] := by decide

/-- V10.2: reserved opcodes, one byte consumed. -/
theorem test_decode_reserved :
    ∀ op ∈ ([0x00, 0x03, 0x0F, 0x11, 0x1F, 0x22, 0x2F, 0x34, 0x3F, 0x42, 0x4F, 0x51, 0xFF] : List U8),
      decode [op, 0x01] = .reserved op [0x01] := by decide

/-- R82: a request whose last byte has not arrived. -/
theorem test_decode_incomplete :
    decode [] = .incomplete ∧ decode [0x02] = .incomplete ∧
    decode [0x10, 0x01, 0x02, 0x00, 0xAA] = .incomplete ∧ decode (0x20 :: zeros 141) = .incomplete := by
  decide +kernel

/-- Encoding gives the bytes of the spec's examples back (V3.1, V5). -/
theorem test_encode :
    encode (.txFrame 0x05 [0xA5, 0x5A]) = [0x10, 0x05, 0x02, 0x00, 0xA5, 0x5A] ∧
    encode (.layoutSet 0x0000000B (sparse [(0, 12), (1, 8), (3, 32)])) =
      [0x30, 0x0B, 0x00, 0x00, 0x00, 0x0C, 0x08, 0x00, 0x20] ++ zeros 28 := by decide

/-- The rows of spec/opcode_table.json, each as 8 table bits. -/
theorem test_table_words :
    decodeTableWord 8 0x01 = some .crcInit ∧ decodeTableWord 8 0x02 = some (.crcUpdate 0) ∧
    decodeTableWord 8 0x10 = some (.txFrame 0 []) ∧ decodeTableWord 8 0x21 = some (.statusUnpack []) ∧
    decodeTableWord 8 0x31 = some (.layoutLoad []) ∧ decodeTableWord 8 0x33 = some (.dataUnpack []) ∧
    decodeTableWord 8 0x40 = some (.rxByte 0) ∧ decodeTableWord 8 0x41 = some .rxTick ∧
    decodeTableWord 8 0x50 = some (.regRead 0) ∧ decodeTableWord 8 0x00 = none := by decide

theorem test_table_words_long :
    decodeTableWord 8 0x20 = some (.statusPack (statusFields (zeros 142))) ∧
    decodeTableWord 8 0x30 = some (.layoutSet 0 (sparse [])) ∧
    decodeTableWord 8 0x32 = some (.dataPack 0 (sparse [])) := by decide +kernel

/-- The table's numbering: the second byte is bits 15..8. -/
theorem test_table_word_order : decodeTableWord 16 0xA540 = some (.rxByte 0xA5) := by decide

/-! ### CRC generator -/

/-- V1.1: the check value, and the empty sequence. -/
theorem test_crc16_check_value :
    crc16 [0x31, 0x32, 0x33, 0x34, 0x35, 0x36, 0x37, 0x38, 0x39] = 0x29B1 ∧ crc16 [] = 0xFFFF := by decide +kernel

/-- V1.2. -/
theorem test_crc_step :
    crcStep 0xFFFF 0x01 = 0xF1D1 ∧ crcStep 0xFFFF 0xA5 = 0x04BF ∧ crcStep 0x0000 0xFE = 0x0ED1 := by decide

/-- V2: some entries of the table, and R105 on one pair. -/
theorem test_crc_table :
    crcTable 0x01 = 0x1021 ∧ crcTable 0x46 = 0x2802 ∧ crcTable 0xFF = 0x1EF0 ∧
    crcStepByTable 0x1234 0x56 = crcStep 0x1234 0x56 := by decide

theorem test_crc_init : answer (exec .crcInit (withLayout 0 [])) = [0x00, 0xFF, 0xFF] := by decide

/-- V1.3: straight after reset. -/
theorem test_crc_update : answer (exec (.crcUpdate 0x41) State.reset) = [0x00, 0x15, 0xB9] := by decide

/-! ### Frame encoder -/

/-- V3.1. -/
theorem test_tx_frame :
    answer (exec (.txFrame 0x05 [0xA5, 0x5A]) State.reset) =
      [0x00, 0x0A, 0x00, 0x00, 0x00, 0xA5, 0x5A, 0x01, 0x05, 0x02, 0x00, 0xA5, 0x5A, 0xBB, 0x9C] ∧
    (after (exec (.txFrame 0x05 [0xA5, 0x5A]) State.reset)).framesTx = 1 := by decide +kernel

/-- V3.3: an unknown kind, and nothing written. -/
theorem test_tx_frame_bad_kind :
    exec (.txFrame 0x06 []) State.reset = raise .badKind State.reset ∧
    answer (exec (.txFrame 0x00 []) State.reset) = [0x03] := ⟨rfl, by decide⟩

/-! ### Status codec -/

/-- V4.1. -/
theorem test_status_pack :
    answer (exec (.statusPack recordV41) State.reset) = 0x00 :: payloadV41 := by decide

/-- V4.2: bytes 0 to 141 come back, whatever the padding; a wrong length is refused. -/
theorem test_status_unpack :
    answer (exec (.statusUnpack (payloadV41.take 142 ++ [0xFF, 0xFF])) State.reset) =
      0x00 :: payloadV41.take 142 ∧
    answer (exec (.statusUnpack (zeros 143)) State.reset) = [0x05] ∧
    answer (exec (.statusUnpack (zeros 145)) State.reset) = [0x05] := by decide +kernel

/-! ### Sample layout, sample packer and unpacker -/

/-- V5. -/
theorem test_layout_set :
    let t := after (exec (.layoutSet 0x0000000B (sparse [(0, 12), (1, 8), (3, 32)])) State.reset)
    t.layoutValid = true ∧ t.layoutMap = 0x0000000B ∧ t.layoutBits[3] = 32 ∧ t.layoutBits[2] = 0 := by
  decide

/-- V5: V4.1's payload. -/
theorem test_layout_load :
    let t := after (exec (.layoutLoad payloadV41) State.reset)
    t.layoutValid = true ∧ t.layoutMap = 0x80000001 ∧ t.layoutBits[0] = 32 ∧ t.layoutBits[31] = 1 := by
  decide +kernel

/-- V5: a payload one byte short leaves the layout alone. -/
theorem test_layout_load_short :
    exec (.layoutLoad (zeros 143)) State.reset = raise .malformedLength State.reset := by
  simp [exec, execLayoutLoad, zeros]

/-- V6.2, second row: widths that are not whole bytes, and the last sensor. -/
theorem test_data_pack :
    answer (exec (.dataPack 0x000003E8 (sparse [(0, 0x3), (5, 0x3FF), (31, 0x1ABCDEF)]))
      (withLayout 0x80000021 [(0, 1), (5, 9), (31, 17)])) =
      [0x00, 0x0A, 0x00, 0xE8, 0x03, 0x00, 0x00, 0x01, 0xFF, 0x01, 0xEF, 0xCD, 0x01] := by decide

/-- V6.4: no layout; a width of 0; a width of 33. -/
theorem test_data_pack_errors :
    answer (exec (.dataPack 0 (sparse [])) State.reset) = [0x04] ∧
    answer (exec (.dataPack 0 (sparse [])) (withLayout 1 [])) = [0x06] ∧
    answer (exec (.dataPack 0 (sparse [])) (withLayout 1 [(0, 33)])) = [0x06] := by decide

/-- V6.2, first row, unpacked. -/
theorem test_data_unpack :
    answer (exec (.dataUnpack [0x78, 0x56, 0x34, 0x12, 0xBC, 0x0A, 0xFF, 0xEF, 0xBE, 0xAD, 0xDE])
      (withLayout 0x0000000B [(0, 12), (1, 8), (3, 32)])) =
      [0x00, 0x78, 0x56, 0x34, 0x12, 0x0B, 0x00, 0x00, 0x00, 0xBC, 0x0A, 0x00, 0x00, 0xFF, 0x00, 0x00,
        0x00, 0x00, 0x00, 0x00, 0x00, 0xEF, 0xBE, 0xAD, 0xDE] ++ zeros 112 := by decide

/-- V6.3, V6.4: bits above the width dropped; one byte long; the layout before the length. -/
theorem test_data_unpack_corners :
    (answer (exec (.dataUnpack [0, 0, 0, 0, 0xFF, 0xFF]) (withLayout 1 [(0, 12)]))).take 13 =
      [0x00, 0x00, 0x00, 0x00, 0x00, 0x01, 0x00, 0x00, 0x00, 0xFF, 0x0F, 0x00, 0x00] ∧
    answer (exec (.dataUnpack [0, 0, 0, 0, 0xFF, 0xFF, 0]) (withLayout 1 [(0, 12)])) = [0x05] ∧
    answer (exec (.dataUnpack [0, 0, 0]) (withLayout 1 [(0, 33)])) = [0x06] ∧
    answer (exec (.dataUnpack [0, 0, 0]) State.reset) = [0x04] := by decide

/-! ### Frame parser -/

/-- V7.2, last row: the second CRC byte emits the frame, its CRC wrong. -/
theorem test_rx_byte_emits :
    answer (exec (.rxByte 0x0C) { inCrc 1 with rxCbuf := #v[0x03, 0x00] }) =
      [0x00, 0x01, 0x01, 0x02, 0x02, 0x00, 0x01, 0x02, 0x03, 0x0C, 0x02] ∧
    (after (exec (.rxByte 0x0C) (inCrc 1))).crcErrors = 1 := by decide +kernel

/-- V7.3, byte 5: the last header byte. -/
theorem test_rx_byte_header_end :
    let t := after (exec (.rxByte 0x00) (inHeader 3))
    t.rxState = .readPayload ∧ t.rxLen = 6 ∧ t.rxCount = 0 := by decide

/-- R202: in `WaitSOF2` a second 0xA5 is dropped here, and kept where the parameter says so. -/
theorem test_rx_sof2_policy :
    (rxByte Config.params 0xA5 sawSof1).1.rxState = .waitSof1 ∧
    (rxByte ⟨3, true⟩ 0xA5 sawSof1).1.rxState = .waitSof2 := by decide

/-- V9, with `STALL_LIMIT` 3: the third tick aborts; the second does not. -/
theorem test_rx_tick :
    (rxTick ⟨3, false⟩ { sawSof1 with rxStallCnt := 2 }).2 = true ∧
    (rxTick ⟨3, false⟩ { sawSof1 with rxStallCnt := 2 }).1.stallAborts = 1 ∧
    (rxTick ⟨3, false⟩ { sawSof1 with rxStallCnt := 1 }).2 = false := by decide

/-- V9, first row: a tick in `WaitSOF1` does nothing. -/
theorem test_rx_tick_idle : answer (exec .rxTick State.reset) = [0x00, 0x00] := by decide

/-! ### Register read, reserved opcodes, the port -/

/-- V10.1, V5. -/
theorem test_reg_read :
    answer (exec (.regRead 0x01) State.reset) = [0x00, 0xFF, 0xFF, 0x00, 0x00] ∧
    answer (exec (.regRead 0x10) (withLayout 0xB [(0, 12), (1, 8), (3, 32)])) =
      [0x00, 0x0C, 0x08, 0x00, 0x20] ∧
    answer (exec (.regRead 0x17) (withLayout 1 [(31, 1)])) = [0x00, 0x00, 0x00, 0x00, 0x01] := by decide

/-- V10.2. -/
theorem test_reg_read_bad :
    ∀ r ∈ ([0x0E, 0x0F, 0x18, 0x20, 0xFF] : List U8), answer (exec (.regRead r) State.reset) = [0x07] := by
  decide

/-- V10.2, the stream `00 01`: the reserved byte is one request; the next byte is the next opcode. -/
theorem test_step_reserved :
    answer (step { State.reset with port := asInput [0x00, 0x01] }) = [0x01] ∧
    (after (step { State.reset with port := asInput [0x00, 0x01] })).port = asInput [0x01] := by decide

/-- R281: the bytes before a reset that make no request are gone. -/
theorem test_step_reset :
    let s := { withLayout 1 [] with port := asInput [0x02] ++ [.reset, .byte 0x01] }
    (after (step s)).layoutValid = false ∧ (after (step s)).port = asInput [0x01] ∧
    (after (step s)).responses = [] := by decide

/-- A table word is the first request that runs after reset. -/
theorem test_with_fetch_word :
    answer (step (State.reset.withFetchWord 8 0x32)) = [0x04] ∧
    answer (step (State.reset.withFetchWord 16 0x4102)) = [0x00, 0x15, 0xB9] := by decide +kernel

/-- R88. -/
theorem test_asm :
    asmLine (.txFrame 0x03 [0xA5, 0x5A]) = "TX_FRAME 0x03, [A5 5A]".toList ∧
    asmLine .rxTick = "RX_TICK".toList := by decide

/-- The text between braces, for the sparse arrays of R88. -/
def braces (t : String) : List Char := [Char.ofNat 0x7B] ++ t.toList ++ [Char.ofNat 0x7D]

/-- The examples of 40_crc.md R104, 41_tx_framer.md R121, 43_data_pack.md R162, 30_encoding.md R88. -/
theorem test_assembleLine :
    assembleLine "CRC_UPDATE 0x41 ; one byte".toList = some [.crcUpdate 0x41] ∧
    assembleLine "TX_FRAME 0x03, [05 05 02 D2 04]".toList =
      some [.txFrame 0x03 [0x05, 0x05, 0x02, 0xD2, 0x04]] ∧
    assembleLine ("LAYOUT_SET map=0x0000000B, bits=".toList ++ braces "0:12, 1:8, 3:32") =
      some [.layoutSet 0x0B (sparse [(0, 12), (1, 8), (3, 32)])] ∧
    assembleLine "REG_READ CRC_ACC".toList = some [.regRead 0x01] ∧
    assembleLine "RX_BYTES [A5 5A]".toList = some [.rxByte 0xA5, .rxByte 0x5A] ∧
    assembleLine "RX_BYTE 256".toList = none := by decide +kernel

/-- A named operand R88 does not list is refused (log entry 13). -/
theorem test_assembleLine_unlisted_name :
    assembleLine "STATUS_PACK bogus=1".toList = none ∧
    assembleLine "STATUS_PACK state=1, bogus=1".toList = none ∧
    assembleLine ("LAYOUT_SET map=1, bits=".toList ++ braces "0:12" ++ ", adc=1".toList) = none := by
  decide +kernel

/-- An array without elements is all zero; an empty element beside a comma is refused (log entry 13). -/
theorem test_readArray_empty_elements :
    readArray 8 (braces "") = some (sparse []) ∧ readArray 8 (braces " ") = some (sparse []) ∧
    readArray 8 (braces "0:12,,1:8") = none ∧ readArray 8 (braces "0:12,") = none ∧
    readArray 8 (braces ",") = none := by decide +kernel

/-- A line that was printed reads back: 42_status.md R140's example record, 43_data_pack.md R185's
operands. -/
theorem test_assemble_printed :
    (∀ i ∈ [Instr.statusPack ⟨0, 2, 0x3, 0, sparse [(0, 1000), (1, 500)], sparse [], sparse [], 0, 0⟩,
        .dataPack 0x12345678 (sparse [(0, 0xABC), (1, 0x1FF), (3, 0xDEADBEEF)]), .dataUnpack [],
        .crcInit], assembleLine (asmLine i) = some [i]) ∧
    assembleLine ("STATUS_PACK n=2, active=0x3, rates=".toList ++ braces "0:1000, 1:500") =
      some [.statusPack ⟨0, 2, 0x3, 0, sparse [(0, 1000), (1, 500)], sparse [], sparse [], 0, 0⟩] := by
  decide +kernel

/-! ### Witnesses: for each statement with hypotheses, values that meet them -/

/-- For `DecodeOfEncodeIsTheRequest` and `StepRunsTheEncodedRequest`. -/
theorem witness_well_formed_request :
    Instr.wellFormed (.txFrame 0x01 [0xAA]) = true ∧
    { State.reset with port := asInput (encode (.txFrame 0x01 [0xAA])) ++ [HostInput.reset] }.port =
      asInput (encode (.txFrame 0x01 [0xAA])) ++ [HostInput.reset] := ⟨by decide, rfl⟩

/-- For `DecodedBytesAreTheEncoding`, `StepRunsTheDecodedRequest` and the clauses of
`RequestIsCompleteAtItsLastByte`. -/
theorem witness_decoded_request :
    decode (leadingBytes (asInput [0x40, 0x5A, 0x41])) = .request (.rxByte 0x5A) [0x41] ∧
    decode [0x51, 0x41] = .reserved 0x51 [0x41] ∧
    [0x40].length < requestSize [0x40] ∧ ([] : List U8).length < requestSize [] := by decide

/-- For `ReservedOpcodeAnswersIllegalOperation`: both ends of every range of R87. -/
theorem witness_reserved_opcodes :
    ∀ op ∈ ([0x00, 0x03, 0x0F, 0x11, 0x1F, 0x22, 0x2F, 0x34, 0x3F, 0x42, 0x4F, 0x51, 0xFF] : List U8),
      ReservedOpcode op ∧ { State.reset with port := asInput [op] }.port = .byte op :: [] := by
  decide

/-- For `BlockWaitsForAWholeRequest`: a request but its last byte, and no byte. -/
theorem witness_partial_request :
    { State.reset with port := asInput [0x21, 0x02, 0x00, 0x07] }.port =
      asInput [0x21, 0x02, 0x00, 0x07] ∧
    [0x21, 0x02, 0x00, 0x07].length < requestSize [0x21, 0x02, 0x00, 0x07] ∧
    ([] : List U8).length < requestSize [] := by decide

/-- For `ResetDiscardsThePartialRequest`. -/
theorem witness_reset_after_partial_request :
    [0x02].length < requestSize [0x02] ∧
    { State.reset with port := asInput [0x02] ++ HostInput.reset :: asInput [0x01] }.port =
      asInput [0x02] ++ HostInput.reset :: asInput [0x01] := by decide

/-- For `ErrorsWriteNoState` and `OperationsReturnOnlyTheirErrors`. -/
theorem witness_error :
    exec (.regRead 0x0E) State.reset =
      .next { State.reset with responses := [.err .badRegister] } ∧
    ErrCode.badRegister ∈ possibleErrors (.regRead 0x0E) := ⟨rfl, by decide⟩

/-- For `OperationsTouchDisjointParts`: two states that agree only in the layout. -/
theorem witness_same_for_op :
    SameForOp (.dataPack 0 (sparse [])) (withLayout 1 [(0, 8)])
      { withLayout 1 [(0, 8)] with crcAcc := 0x0000, rxState := .readCrc } := ⟨rfl, rfl, rfl⟩

/-- For `OtherOperationsAreIdempotent`. -/
theorem witness_idempotent : isIdempotent (.layoutSet 1 (sparse [])) = true := rfl

/-- For `ResultBytes`. -/
theorem witness_result_lengths :
    ([0xAA] : List U8).length < 2 ^ 32 ∧ ([0xAA] : List U8).length < 2 ^ 16 ∧ scenarioA.length = 144 := by
  decide +kernel

/-- For `CrcIsAffine` and `CrcSeesEverySingleBitFlip` (the last byte and its highest bit). -/
theorem witness_crc_sequences :
    [0x01, 0x02].length = [0x00, 0x10].length ∧ 1 < ([0x01, 0x02] : List U8).length ∧ 7 < 8 := by decide

/-- For `TxFrameBuildsTheFrame`, `TransmittedFramesAreReceived` and `FrameAfterGarbageIsReceived`: the
smallest and the largest known kind. -/
theorem witness_known_kinds :
    ([] : List U8).length ≤ 65535 ∧ 1 ≤ (0x01 : U8).toNat ∧ (0x01 : U8).toNat ≤ 5 ∧
    1 ≤ (0x05 : U8).toNat ∧ (0x05 : U8).toNat ≤ 5 ∧ State.reset.rxState = .waitSof1 := by decide

/-- For the clauses of `TxFrameErrors`. -/
theorem witness_tx_frame_errors :
    65535 < longPayload.length ∧
    ([] : List U8).length ≤ 65535 ∧ (0x00 : U8).toNat = 0 ∧ 5 < (0x06 : U8).toNat ∧
    5 < (0xFF : U8).toNat := by
  rw [longPayload_length]
  decide

/-- For the clauses of `StatusUnpackReadsTheRecord`, `StatusRoundTrip` and
`LayoutLoadTakesTheStatusLayout`. -/
theorem witness_status_lengths :
    scenarioA.length = 144 ∧ (scenarioA.take 142 ++ [0xFF, 0xFF]).length = 144 ∧
    (scenarioA.take 142 ++ [0xFF, 0xFF]).take 142 = scenarioA.take 142 ∧
    (zeros 143).length ≠ 144 ∧ (zeros 145).length ≠ 144 := by decide +kernel

/-- For the clauses of `FieldWidthsOfR179`: the ends of each range. -/
theorem witness_field_widths :
    fieldWidth 1 = 1 ∧ fieldWidth 8 = 1 ∧ fieldWidth 9 = 2 ∧ fieldWidth 16 = 2 ∧
    fieldWidth 17 = 3 ∧ fieldWidth 24 = 3 ∧ fieldWidth 25 = 4 ∧ fieldWidth 32 = 4 := by decide

/-- For the clauses of `DataPackBuildsThePayload`, `DataUnpackReadsTheFields` and `DataRoundTrip`: no
layout; widths just outside 1 to 32; widths at both ends; an inactive sensor. -/
theorem witness_layouts :
    State.reset.layoutValid = false ∧
    (withLayout 1 [(0, 0)]).layoutValid = true ∧ ¬ WidthsInRange 1 (sparse [(0, 0)]) ∧
    ¬ WidthsInRange 1 (sparse [(0, 33)]) ∧
    WidthsInRange 0x80000001 (sparse [(0, 1), (31, 32)]) ∧
    fieldOffset 0x80000001 (sparse [(0, 1), (31, 32)]) 32 = 9 ∧
    Active 0x80000001 31 ∧ ¬ Active 0x80000001 1 ∧ (0x1 : U32).toNat < 2 ^ (1 : U8).toNat := by decide

/-- For `DataRoundTrip`: two states with the same layout. -/
theorem witness_same_layout :
    SameLayout (withLayout 1 [(0, 8)]) { withLayout 1 [(0, 8)] with framesRx := 5 } := ⟨rfl, rfl, rfl⟩

/-- For `RxByteInWaitSof1`, `RxByteInWaitSof2` and the clauses of `RxByteInReadHeader`. -/
theorem witness_parser_starts :
    State.reset.rxState = .waitSof1 ∧ sawSof1.rxState = .waitSof2 ∧
    (inHeader 0).rxState = .readHeader ∧ (inHeader 0).rxCount.toNat < 3 ∧
    (inHeader 2).rxCount.toNat < 3 ∧ (inHeader 3).rxCount.toNat = 3 := by decide

/-- For the clauses of `RxByteInReadPayload`: the first byte, the last but one, the last. -/
theorem witness_parser_payload :
    (inPayload 0).rxState = .readPayload ∧ (inPayload 0).rxCount.toNat < (inPayload 0).rxLen.toNat ∧
    (inPayload 1).rxCount.toNat + 1 < (inPayload 1).rxLen.toNat ∧
    (inPayload 2).rxCount.toNat < (inPayload 2).rxLen.toNat ∧
    (inPayload 2).rxCount.toNat + 1 = (inPayload 2).rxLen.toNat := by decide

/-- For `RxByteStoresTheFirstCrcByte` and `RxByteEmitsTheCompletedFrame`. -/
theorem witness_parser_crc :
    (inCrc 0).rxState = .readCrc ∧ (inCrc 0).rxCount = 0 ∧ (inCrc 1).rxState = .readCrc ∧
    (inCrc 1).rxCount = 1 := by decide

/-- For the clauses of `RxTickCountsAndAborts`, with a limit of 3 (44_rx_parser.md R215's example) and the
smallest limit: outside a frame, one and two ticks below the limit. -/
theorem witness_tick_clauses :
    State.reset.rxState = .waitSof1 ∧
    (let s := { sawSof1 with rxStallCnt := 1 }
     s.rxState ≠ .waitSof1 ∧ s.rxStallCnt.toNat + 1 < (⟨3, false⟩ : Params).stallLimit.toNat) ∧
    (let s := { sawSof1 with rxStallCnt := 2 }
     s.rxState ≠ .waitSof1 ∧ (⟨3, false⟩ : Params).stallLimit.toNat ≤ s.rxStallCnt.toNat + 1 ∧
       s.rxStallCnt.toNat + 1 < 2 ^ 32) ∧
    (sawSof1.rxState ≠ .waitSof1 ∧
      (⟨1, false⟩ : Params).stallLimit.toNat ≤ sawSof1.rxStallCnt.toNat + 1 ∧
      sawSof1.rxStallCnt.toNat + 1 < 2 ^ 32) := by decide

/-- For `StallLimitTicksAbortTheFrame`. -/
theorem witness_mid_frame : sawSof1.rxState ≠ .waitSof1 ∧ sawSof1.rxStallCnt = 0 := by decide

/-- A parser between two header bytes meets the invariant; the header bytes still to come may hold
anything. -/
theorem inv_inHeader (h : Vector U8 4) : Inv Config.params { inHeader 0 with rxHdr := h } where
  idleCount := fun e => by rcases e with e | e <;> cases e
  headerCount := fun _ => Nat.zero_le 3
  payloadCount := fun e => by cases e
  payloadLen := fun e => by cases e
  crcCount := fun e => by cases e
  crcLen := fun e => by cases e
  idleStall := fun e => by cases e
  stallBelow := Config.stallLimit_pos
  pbufWf := rfl

/-- For `EveryStepKeepsTheInvariant`: a state that meets it, and its step. -/
theorem witness_invariant_step :
    Inv Config.params { inHeader 0 with rxHdr := #v[0, 0, 0, 0] } ∧
    step { inHeader 0 with rxHdr := #v[0, 0, 0, 0] } =
      .next { inHeader 0 with rxHdr := #v[0, 0, 0, 0] } := ⟨inv_inHeader _, rfl⟩

/-- For `ParserRefinesTheByteListParser`: inside a header, a payload and the CRC. -/
theorem witness_represents :
    Represents (inHeader 2) (.inFrame [0x01, 0x02]) ∧
    Represents (inPayload 0) (.inFrame [0x01, 0x02, 0x03, 0x00]) ∧
    Represents (inCrc 1) (.inFrame [0x01, 0x02, 0x02, 0x00, 0x01, 0x02, 0x03]) ∧
    Represents State.reset .hunting ∧ Represents sawSof1 .sof1Seen :=
  ⟨.inl (by decide), .inr (.inl (by decide)), .inr (.inr (by decide)), ⟨rfl, rfl⟩, ⟨rfl, rfl⟩⟩

/-- For `EveryCompleteFrameIsEmitted` and `SingleBitErrorsAreFlagged`: a payload byte, its top bit. -/
theorem witness_frame_bits :
    ([0xAA] : List U8).length ≤ 65535 ∧ State.reset.rxState = .waitSof1 ∧
    4 < 4 + ([0xAA] : List U8).length ∧ 4 ≠ 2 ∧ 4 ≠ 3 ∧ 7 < 8 := by decide

/-- For `FramesDependOnlyOnTheBytes`: responses without an abort. -/
theorem witness_no_abort : Response.ok (.tick true) ∉ [Response.ok (.tick false), .ok (.rx none)] := by
  decide

/-- Bytes without `A5 5A` for the premises on garbage, ending in an even run, an odd run and no run of
0xA5. -/
theorem witness_garbage :
    NoSofPair [0x5A, 0xA5, 0xA5] ∧ finalSof1Run [0x5A, 0xA5, 0xA5] % 2 = 0 ∧
    NoSofPair [0x5A, 0xA5] ∧ finalSof1Run [0x5A, 0xA5] % 2 = 1 ∧ NoSofPair [] ∧
    Config.params.sof2Retest = false := by decide

/-- The 0x5A of a byte sequence stands after one of its proper beginnings. -/
theorem noSofMatch_of_prefixes {p : Params} {g : List U8} {s : State}
    (h : ∀ n : Fin g.length, g[n] = 0x5A → (feed p (g.take n.val) s).1.rxState ≠ .waitSof2) :
    NoSofMatch p g s := by
  intro before after e
  subst e
  have hl : before.length < (before ++ 0x5A :: after).length := by simp
  have := h ⟨before.length, hl⟩ (by simp)
  simpa using this

/-- For `GarbageEmitsNothing` and the clauses of `FrameAfterGarbageIsReceived`: `A5 A5 5A`, no SOF match
when the rejected byte is dropped (44_rx_parser.md R214), then an even and an odd run of 0xA5, and with
the re-test a run. -/
theorem witness_no_sof_match :
    NoSofMatch ⟨3, false⟩ [0xA5, 0xA5, 0x5A, 0xA5, 0xA5] State.reset ∧
    NoSofMatch ⟨3, false⟩ [0xA5, 0xA5, 0x5A, 0xA5] State.reset ∧
    NoSofMatch ⟨3, true⟩ [0x5A, 0xA5, 0xA5] State.reset ∧ State.reset.rxState = .waitSof1 :=
  ⟨noSofMatch_of_prefixes (by decide), noSofMatch_of_prefixes (by decide),
    noSofMatch_of_prefixes (by decide), rfl⟩

/-- For `StaleBufferBytesAreNotObservable`: two states that differ in header bytes not yet received. -/
theorem witness_stale_bytes :
    Inv Config.params { inHeader 0 with rxHdr := #v[1, 2, 3, 4] } ∧
    Inv Config.params { inHeader 0 with rxHdr := #v[5, 6, 7, 8] } ∧
    forgetStale { inHeader 0 with rxHdr := #v[1, 2, 3, 4] } =
      forgetStale { inHeader 0 with rxHdr := #v[5, 6, 7, 8] } :=
  ⟨inv_inHeader _, inv_inHeader _, by decide⟩

/-- For the last clause of `RegReadValues`: every range at its ends. -/
theorem witness_no_register :
    (0x0E : U8).toNat = 0x0E ∧ (0x0F : U8).toNat = 0x0F ∧ 0x18 ≤ (0x18 : U8).toNat ∧
    0x18 ≤ (0xFF : U8).toNat := by decide

end Sys2Proof.Tests
end

section
/-! PROOF. The block waits while a request is incomplete (spec/00_scope.md R6): which bytes the decoder
takes for incomplete (spec/30_encoding.md R82, R83), and the step on a port that holds only such bytes. -/

namespace Sys2Proof

open Machine

/-! ### The operands that have not all arrived -/

theorem byteAt_cons_zero (b : U8) (s : List U8) : byteAt (b :: s) 0 = b := rfl

theorem byteAt_cons_succ (b : U8) (s : List U8) (i : Nat) : byteAt (b :: s) (i + 1) = byteAt s i := rfl

theorem splitBytes_eq_none_iff {n : Nat} {bs : List U8} : splitBytes n bs = none ↔ bs.length < n := by
  simp [splitBytes]

/-- A counted operand is its two count bytes and as many bytes as they say (R83). -/
theorem splitCounted_eq_none_iff {bs : List U8} :
    splitCounted bs = none ↔ bs.length < 2 + fromLe [byteAt bs 0, byteAt bs 1] := by
  match bs with
  | [] => simp [splitCounted]
  | [b] =>
    simp only [splitCounted, List.length_cons, List.length_nil, true_iff]
    omega
  | lo :: hi :: more =>
    simp only [splitCounted, splitBytes_eq_none_iff, byteAt_cons_succ, byteAt_cons_zero,
      List.length_cons]
    omega

/-- R82, R83: the operands of a defined opcode are incomplete exactly while the request is shorter than
its own first bytes tell. -/
theorem decodeOperands_eq_none_iff (o : Opcode) (more : List U8) :
    decodeOperands o more = none ↔ (o.code :: more).length < requestSize (o.code :: more) := by
  rw [Laws.EncodingShape.requestSize_code, List.length_cons]
  cases o with
  | crcInit | rxTick => simp [decodeOperands, Opcode.format]
  | crcUpdate | rxByte | regRead => cases more <;> simp [decodeOperands, Opcode.format]
  | txFrame =>
    cases more with
    | nil =>
      simp only [decodeOperands, Opcode.format, List.length_nil, true_iff]
      omega
    | cons kind more =>
      simp only [decodeOperands, Opcode.format, Option.map_eq_none_iff, splitCounted_eq_none_iff,
        byteAt_cons_succ, List.length_cons]
      omega
  | statusUnpack | layoutLoad | dataUnpack =>
    simp only [decodeOperands, Opcode.format, Option.map_eq_none_iff, splitCounted_eq_none_iff,
      byteAt_cons_succ]
    omega
  | statusPack | layoutSet | dataPack =>
    simp only [decodeOperands, Opcode.format, Option.map_eq_none_iff, splitBytes_eq_none_iff,
      Config.statusFieldsLen]
    omega

/-- A reserved opcode is a whole request, of one byte (R87). -/
theorem requestSize_of_reserved {op : U8} (h : Opcode.ofByte op = none) (more : List U8) :
    requestSize (op :: more) = 1 := by
  simp only [requestSize, byteAt_cons_zero, h]

/-- R82, R83, R87: the port is self-delimiting. The decoder waits exactly while fewer bytes stand there
than the first of them tell. -/
theorem decode_eq_incomplete_iff (bs : List U8) :
    decode bs = .incomplete ↔ bs.length < requestSize bs := by
  cases bs with
  | nil => decide
  | cons op more =>
    cases hop : Opcode.ofByte op with
    | none => simp [decode, hop, requestSize_of_reserved hop]
    | some o =>
      obtain rfl := Opcode.code_of_ofByte hop
      rw [decode_code, ← decodeOperands_eq_none_iff]
      cases decodeOperands o more <;> simp

namespace Machine

/-! ### The step on a port without a whole request -/

@[simp] theorem leadingBytes_asInput (bs : List U8) : leadingBytes (asInput bs) = bs := by
  simpa [leadingBytes] using leadingBytes_asInput_append bs []

@[simp] theorem afterLeadingBytes_asInput (bs : List U8) : afterLeadingBytes (asInput bs) = [] := by
  simpa [afterLeadingBytes] using afterLeadingBytes_asInput_append bs []

/-- Bytes the decoder takes for incomplete, and no reset behind them: nothing to perform. -/
theorem fetch_asInput_of_incomplete {bs : List U8} (h : decode bs = .incomplete) :
    fetch (asInput bs) = .idle := by
  simp [fetch, h]

/-- R6: the block runs nothing by itself. -/
theorem step_of_fetch_idle {s : State} (h : fetch s.port = .idle) : step s = .next s := by
  simp [step, h]

end Machine

/-- Settles O9: the decoder takes the partial request for incomplete, so there is nothing to fetch. -/
theorem blockWaitsForAWholeRequest : Obligations.BlockWaitsForAWholeRequest := by
  intro s part hport hpart
  have hwait : decode part = .incomplete := (decode_eq_incomplete_iff part).mpr hpart
  have hidle : fetch s.port = .idle := hport ▸ fetch_asInput_of_incomplete hwait
  exact step_of_fetch_idle hidle

end Sys2Proof
end

section
/-! PROOF. The parser refines a parser that is a list of bytes (spec/10_state.md R38,
spec/44_rx_parser.md R200 to R212): what one byte does inside a frame, the frame spelled by the bytes of
header, payload and CRC, and the simulation, one lemma for each state of R23. -/

namespace Sys2Proof.Machine

/-! ### One byte, by state and count -/

theorem rxByte_waitSof1_of_eq {p : Params} {s : State} (hst : s.rxState = .waitSof1) :
    rxByte p Config.sof1 s = ({ s with rxState := .waitSof2, rxStallCnt := 0 }, none) := by
  rw [rxByte_waitSof1 hst]
  rfl

theorem rxByte_waitSof1_of_ne {p : Params} {b : U8} {s : State} (hst : s.rxState = .waitSof1)
    (hb : b ≠ Config.sof1) : rxByte p b s = ({ s with rxStallCnt := 0 }, none) := by
  rw [rxByte_waitSof1 hst, rxWaitSof1, if_neg hb]

theorem rxByte_waitSof2_of_eq {p : Params} {s : State} (hst : s.rxState = .waitSof2) :
    rxByte p Config.sof2 s =
      ({ s with rxState := .readHeader, rxCount := 0, rxStallCnt := 0 }, none) := by
  rw [rxByte_waitSof2 hst]
  rfl

/-- A byte that fails SOF2 is tested as SOF1 again or dropped (R202). -/
theorem rxByte_waitSof2_of_ne {p : Params} {b : U8} {s : State} (hst : s.rxState = .waitSof2)
    (hb : b ≠ Config.sof2) :
    rxByte p b s = ({ s with
      rxState := if p.sof2Retest = true ∧ b = Config.sof1 then .waitSof2 else .waitSof1
      rxStallCnt := 0 }, none) := by
  rw [rxByte_waitSof2 hst, rxWaitSof2, if_neg hb]
  simp only [Bool.and_eq_true, beq_iff_eq]
  split <;> rfl

/-- A header byte before the last (R203). -/
theorem rxByte_readHeader_of_lt {p : Params} {b : U8} {s : State} (hst : s.rxState = .readHeader)
    (hcnt : s.rxCount.toNat < 3) :
    rxByte p b s = ({ s with
      rxHdr := s.rxHdr.setIfInBounds s.rxCount.toNat b, rxCount := s.rxCount + 1
      rxStallCnt := 0 }, none) := by
  have hmore : s.rxCount + 1 ≠ (4 : U16) := by bv_omega
  rw [rxByte_readHeader hst, rxReadHeader, if_neg hmore]

/-- The payload length a whole header gives (R204). -/
def headerLength (hdr : Vector U8 4) : U16 := BitVec.ofNat 16 (fromLe [hdr[2], hdr[3]])

theorem headerLength_toNat (hdr : Vector U8 4) :
    (headerLength hdr).toNat = fromLe [hdr[2], hdr[3]] := by
  rw [headerLength, BitVec.toNat_ofNat, Nat.mod_eq_of_lt (fromLe_pair_lt _ _)]

/-- The last header byte (R204). -/
theorem rxByte_readHeader_of_eq {p : Params} {b : U8} {s : State} (hst : s.rxState = .readHeader)
    (hcnt : s.rxCount.toNat = 3) :
    rxByte p b s = ({ s with
      rxHdr := s.rxHdr.setIfInBounds 3 b, rxLen := headerLength (s.rxHdr.setIfInBounds 3 b)
      rxCount := 0, rxStallCnt := 0
      rxState := if headerLength (s.rxHdr.setIfInBounds 3 b) = 0 then .readCrc else .readPayload },
      none) := by
  have hlast : s.rxCount + 1 = (4 : U16) := by bv_omega
  rw [← hcnt, rxByte_readHeader hst, rxReadHeader, if_pos hlast]
  rfl

/-- A payload byte before the last (R206). -/
theorem rxByte_readPayload_of_ne {p : Params} {b : U8} {s : State} (hst : s.rxState = .readPayload)
    (hmore : s.rxCount + 1 ≠ s.rxLen) :
    rxByte p b s = ({ s with
      rxPbuf := s.rxPbuf.write s.rxCount.toNat b, rxCount := s.rxCount + 1, rxStallCnt := 0 },
      none) := by
  rw [rxByte_readPayload hst, rxReadPayload, if_neg hmore]

/-- The last payload byte (R206). -/
theorem rxByte_readPayload_of_eq {p : Params} {b : U8} {s : State} (hst : s.rxState = .readPayload)
    (hlast : s.rxCount + 1 = s.rxLen) :
    rxByte p b s = ({ s with
      rxPbuf := s.rxPbuf.write s.rxCount.toNat b, rxCount := 0, rxState := .readCrc
      rxStallCnt := 0 }, none) := by
  rw [rxByte_readPayload hst, rxReadPayload, if_pos hlast]

/-- The first CRC byte (R207). -/
theorem rxByte_readCrc_of_zero {p : Params} {b : U8} {s : State} (hst : s.rxState = .readCrc)
    (hcnt : s.rxCount = 0) :
    rxByte p b s = ({ s with
      rxCbuf := s.rxCbuf.setIfInBounds 0 b, rxCount := 1, rxStallCnt := 0 }, none) := by
  rw [rxByte_readCrc hst]
  simp [rxReadCrc, hcnt]

/-- The last CRC byte completes the frame (R208 to R210). -/
theorem rxByte_readCrc_of_one {p : Params} {b : U8} {s : State} (hst : s.rxState = .readCrc)
    (hcnt : s.rxCount = 1) :
    rxByte p b s =
      (let f := heldFrame { s with rxCbuf := s.rxCbuf.setIfInBounds 1 b }
       ({ s with
          rxCbuf := s.rxCbuf.setIfInBounds 1 b, rxCount := 0, rxState := .waitSof1, rxStallCnt := 0
          framesRx := s.framesRx + 1
          crcErrors := if f.crcValid then s.crcErrors else s.crcErrors + 1 }, some f)) := by
  rw [rxByte_readCrc hst]
  simp only [rxReadCrc, hcnt]
  rfl

/-! ### The frame of the bytes received -/

theorem toList_of_header (hdr : Vector U8 4) : hdr.toList = [hdr[0], hdr[1], hdr[2], hdr[3]] :=
  List.ext_getElem (by simp) fun i hi _ => by
    have : i < 4 := by simpa using hi
    interval_cases i <;> simp

theorem toList_of_crcBuffer (cbuf : Vector U8 2) : cbuf.toList = [cbuf[0], cbuf[1]] :=
  List.ext_getElem (by simp) fun i hi _ => by
    have : i < 2 := by simpa using hi
    interval_cases i <;> simp

theorem declaredLength_header_append (hdr : Vector U8 4) (more : List U8) :
    declaredLength (hdr.toList ++ more) = fromLe [hdr[2], hdr[3]] := by
  rw [toList_of_header]
  rfl

theorem slice_zero_append (s t : List U8) (n : Nat) (h : s.length = n) : slice (s ++ t) 0 n = s := by
  subst h
  simp [slice]

/-- The bytes of header, payload and CRC spell the frame the parser holds (R211). -/
theorem frameOf_eq_heldFrame {s : State} (hlen : s.rxLen.toNat = fromLe [s.rxHdr[2], s.rxHdr[3]]) :
    frameOf (s.rxHdr.toList ++ s.rxPbuf.firstBytes s.rxLen.toNat ++ s.rxCbuf.toList) =
      heldFrame s := by
  have hdecl : ∀ more, declaredLength (s.rxHdr.toList ++ more) = s.rxLen.toNat := fun more => by
    rw [declaredLength_header_append, hlen]
  have hbody : (s.rxHdr.toList ++ s.rxPbuf.firstBytes s.rxLen.toNat).length = 4 + s.rxLen.toNat := by
    simp
  have hcrc : slice (s.rxHdr.toList ++ s.rxPbuf.firstBytes s.rxLen.toNat ++ s.rxCbuf.toList)
      (4 + s.rxLen.toNat) (6 + s.rxLen.toNat) = s.rxCbuf.toList := by
    rw [slice_append_right _ _ _ hbody, List.take_of_length_le (by simp; omega)]
  have hcovered : slice (s.rxHdr.toList ++ s.rxPbuf.firstBytes s.rxLen.toNat ++ s.rxCbuf.toList)
      0 (4 + s.rxLen.toNat) = s.rxHdr.toList ++ s.rxPbuf.firstBytes s.rxLen.toNat :=
    slice_zero_append _ _ _ hbody
  have hpayload : slice (s.rxHdr.toList ++ s.rxPbuf.firstBytes s.rxLen.toNat ++ s.rxCbuf.toList)
      4 (4 + s.rxLen.toNat) = s.rxPbuf.firstBytes s.rxLen.toNat := by
    rw [List.append_assoc, slice_append_right _ _ _ (by simp),
      List.take_append_of_le_length (by simp), List.take_of_length_le (by simp)]
  have hbyte : ∀ more i (hi : i < 4), byteAt (s.rxHdr.toList ++ more) i = s.rxHdr[i] :=
    fun more i hi => by
      simp [byteAt, hi, List.getD_eq_getElem?_getD, List.getElem?_append_left]
  unfold frameOf heldFrame
  simp only [List.append_assoc] at hcrc hcovered hpayload ⊢
  simp [hdecl, hcrc, hcovered, hpayload, hbyte, crcValid, kindKnown, beq_eq_decide]

/-! ### The simulation -/

/-- Storing at an index makes the first bytes up to it one longer. -/
theorem take_succ_set (l : List U8) (n : Nat) (b : U8) (h : n < l.length) :
    (l.set n b).take (n + 1) = l.take n ++ [b] := by
  rw [List.take_add_one, List.take_set_of_le (le_refl n)]
  simp [h]

/-- A byte that does not end the frame is one more byte of it. -/
theorem next_inFrame_of_more {retest : Bool} {b : U8} {got : List U8}
    (h : got.length < 3 ∨ got.length + 1 ≠ 6 + declaredLength (got ++ [b])) :
    FrameParse.next retest b (.inFrame got) = (.inFrame (got ++ [b]), none) := by
  refine if_neg fun ⟨hfour, hend⟩ => ?_
  simp only [List.length_append, List.length_singleton] at hfour hend
  omega

/-- The second byte after the payload ends the frame (spec/30_encoding.md R71). -/
theorem next_inFrame_of_end {retest : Bool} {b : U8} {got : List U8}
    (h : got.length + 1 = 6 + declaredLength (got ++ [b])) :
    FrameParse.next retest b (.inFrame got) = (.hunting, some (frameOf (got ++ [b]))) := by
  refine if_pos ?_
  simp only [List.length_append, List.length_singleton]
  omega

/-- The commuting diagram of one byte: the parser's next state holds what the list parser's next state
is, and both emit the same. -/
def Simulates (p : Params) (b : U8) (s : State) (a : FrameParse) : Prop :=
  Represents (rxByte p b s).1 (FrameParse.next p.sof2Retest b a).1 ∧
    (rxByte p b s).2 = (FrameParse.next p.sof2Retest b a).2

theorem simulates_hunting (p : Params) (b : U8) {s : State}
    (hst : s.rxState = .waitSof1) (hcnt : s.rxCount = 0) : Simulates p b s .hunting := by
  unfold Simulates
  by_cases hb : b = 0xA5
  · subst hb
    rw [rxByte_waitSof1_of_eq hst]
    exact ⟨⟨rfl, hcnt⟩, rfl⟩
  · rw [rxByte_waitSof1_of_ne hst hb, FrameParse.next, if_neg hb]
    exact ⟨⟨hst, hcnt⟩, rfl⟩

theorem simulates_sof1Seen (p : Params) (b : U8) {s : State}
    (hst : s.rxState = .waitSof2) (hcnt : s.rxCount = 0) : Simulates p b s .sof1Seen := by
  unfold Simulates
  by_cases hb : b = 0x5A
  · subst hb
    rw [rxByte_waitSof2_of_eq hst]
    exact ⟨.inl ⟨rfl, Nat.zero_le 3, rfl⟩, rfl⟩
  · rw [rxByte_waitSof2_of_ne hst hb, FrameParse.next, if_neg hb]
    by_cases hretest : p.sof2Retest = true ∧ b = 0xA5
    · rw [if_pos hretest, if_pos hretest]
      exact ⟨⟨rfl, hcnt⟩, rfl⟩
    · rw [if_neg hretest, if_neg hretest]
      exact ⟨⟨rfl, hcnt⟩, rfl⟩

/-- `ReadHeader`: the fourth byte moves on to the payload, or to the CRC where there is none. -/
theorem simulates_readHeader (p : Params) (b : U8) {s : State}
    (hst : s.rxState = .readHeader) (hcnt : s.rxCount.toNat ≤ 3) :
    Simulates p b s (.inFrame (s.rxHdr.toList.take s.rxCount.toNat)) := by
  have hstore : s.rxHdr.toList.take s.rxCount.toNat ++ [b] =
      (s.rxHdr.setIfInBounds s.rxCount.toNat b).toList.take (s.rxCount.toNat + 1) := by
    rw [Vector.toList_setIfInBounds, take_succ_set _ _ _ (by simp; omega)]
  unfold Simulates
  by_cases hlast : s.rxCount.toNat = 3
  · rw [hlast, List.take_of_length_le (i := 3 + 1) (by simp)] at hstore
    rw [hlast, rxByte_readHeader_of_eq hst hlast, next_inFrame_of_more (by simp; omega), hstore]
    refine ⟨?_, rfl⟩
    by_cases hlen : headerLength (s.rxHdr.setIfInBounds 3 b) = 0
    · exact .inr (.inr ⟨if_pos hlen, Nat.zero_le 1, headerLength_toNat _, by simp [hlen]⟩)
    · have hpos : 0 < (headerLength (s.rxHdr.setIfInBounds 3 b)).toNat := by bv_omega
      exact .inr (.inl ⟨if_neg hlen, hpos, headerLength_toNat _, by simp⟩)
  · have hlt : s.rxCount.toNat < 3 := by omega
    have hnext : (s.rxCount + 1).toNat = s.rxCount.toNat + 1 := by bv_omega
    rw [rxByte_readHeader_of_lt hst hlt, next_inFrame_of_more (by simp; omega), hstore]
    exact ⟨.inl ⟨hst, by simp only [hnext]; omega, by simp only [hnext]⟩, rfl⟩

/-- `ReadPayload`: the last payload byte moves on to the CRC. -/
theorem simulates_readPayload (p : Params) (b : U8) {s : State}
    (hst : s.rxState = .readPayload) (hcnt : s.rxCount.toNat < s.rxLen.toNat)
    (hlen : s.rxLen.toNat = fromLe [s.rxHdr[2], s.rxHdr[3]]) :
    Simulates p b s (.inFrame (s.rxHdr.toList ++ s.rxPbuf.firstBytes s.rxCount.toNat)) := by
  have hcap : s.rxCount.toNat < 65535 := by have := s.rxLen.isLt; omega
  have hnext : (s.rxCount + 1).toNat = s.rxCount.toNat + 1 := by bv_omega
  have hstore : s.rxHdr.toList ++ s.rxPbuf.firstBytes s.rxCount.toNat ++ [b] =
      s.rxHdr.toList ++ (s.rxPbuf.write s.rxCount.toNat b).firstBytes (s.rxCount.toNat + 1) := by
    rw [Memory.firstBytes_write _ _ _ hcap, List.append_assoc]
  unfold Simulates
  rw [next_inFrame_of_more
    (.inr (by rw [hstore, declaredLength_header_append, ← hlen]; simp; omega)), hstore]
  by_cases hlast : s.rxCount + 1 = s.rxLen
  · have hall : s.rxCount.toNat + 1 = s.rxLen.toNat := by rw [← hnext, hlast]
    rw [rxByte_readPayload_of_eq hst hlast]
    exact ⟨.inr (.inr ⟨rfl, Nat.zero_le 1, hlen, by simp [hall]⟩), rfl⟩
  · rw [rxByte_readPayload_of_ne hst hlast]
    exact ⟨.inr (.inl ⟨hst, by bv_omega, hlen, by simp only [hnext]⟩), rfl⟩

/-- `ReadCRC`: the second byte emits the frame. -/
theorem simulates_readCrc (p : Params) (b : U8) {s : State}
    (hst : s.rxState = .readCrc) (hcnt : s.rxCount.toNat ≤ 1)
    (hlen : s.rxLen.toNat = fromLe [s.rxHdr[2], s.rxHdr[3]]) :
    Simulates p b s (.inFrame (s.rxHdr.toList ++ s.rxPbuf.firstBytes s.rxLen.toNat ++
      s.rxCbuf.toList.take s.rxCount.toNat)) := by
  have hstore : s.rxCbuf.toList.take s.rxCount.toNat ++ [b] =
      (s.rxCbuf.setIfInBounds s.rxCount.toNat b).toList.take (s.rxCount.toNat + 1) := by
    rw [Vector.toList_setIfInBounds, take_succ_set _ _ _ (by simp; omega)]
  have hdecl : declaredLength (s.rxHdr.toList ++ s.rxPbuf.firstBytes s.rxLen.toNat ++
      s.rxCbuf.toList.take s.rxCount.toNat ++ [b]) = s.rxLen.toNat := by
    rw [List.append_assoc, List.append_assoc, declaredLength_header_append, hlen]
  unfold Simulates
  by_cases hfirst : s.rxCount = 0
  · rw [rxByte_readCrc_of_zero hst hfirst, next_inFrame_of_more
      (.inr (by rw [hdecl]; simp [hfirst]; omega)), List.append_assoc, hstore]
    exact ⟨.inr (.inr ⟨hst, by simp, hlen, by simp [hfirst]⟩), rfl⟩
  · have hlast : s.rxCount = 1 := by bv_omega
    rw [rxByte_readCrc_of_one hst hlast, next_inFrame_of_end
      (by rw [hdecl]; simp [hlast]; omega), List.append_assoc, hstore]
    refine ⟨⟨rfl, rfl⟩, congrArg some ?_⟩
    have hfull : (s.rxCbuf.setIfInBounds s.rxCount.toNat b).toList.take (s.rxCount.toNat + 1) =
        (s.rxCbuf.setIfInBounds 1 b).toList := by simp [hlast]
    rw [hfull]
    exact (frameOf_eq_heldFrame (s := { s with rxCbuf := s.rxCbuf.setIfInBounds 1 b }) hlen).symm

end Sys2Proof.Machine

namespace Sys2Proof

open Machine

/-- Settles O49: one commuting diagram for each state of the parser. -/
theorem parserRefinesTheByteListParser : Obligations.ParserRefinesTheByteListParser := by
  intro p b s a h
  cases a with
  | hunting => exact simulates_hunting p b h.1 h.2
  | sof1Seen => exact simulates_sof1Seen p b h.1 h.2
  | inFrame got =>
    rcases h with ⟨hst, hcnt, rfl⟩ | ⟨hst, hcnt, hlen, rfl⟩ | ⟨hst, hcnt, hlen, rfl⟩
    · exact simulates_readHeader p b hst hcnt
    · exact simulates_readPayload p b hst hcnt hlen
    · exact simulates_readCrc p b hst hcnt hlen

end Sys2Proof
end

section
/-! PROOF. Each operation has its own part of the state (spec/10_state.md R39): what it writes, and that
its response and the part after it follow from the part before it. -/

namespace Sys2Proof.Machine

/-! ### What an operation writes -/

/-- R39: each operation writes only its own part. -/
theorem exec_touches (i : Instr) (s : State) : ∃ t, exec i s = .next t ∧ Touches i s t := by
  cases i with
  | crcInit => exact ⟨_, rfl, rfl⟩
  | crcUpdate b => exact ⟨_, rfl, rfl⟩
  | txFrame kind p =>
    simp only [exec, execTxFrame]
    split_ifs <;> exact ⟨_, rfl, rfl⟩
  | statusPack f => exact ⟨_, rfl, rfl⟩
  | statusUnpack p =>
    simp only [exec, execStatusUnpack]
    split_ifs <;> exact ⟨_, rfl, rfl⟩
  | layoutSet map bits => exact ⟨_, rfl, rfl⟩
  | layoutLoad p =>
    simp only [exec, execLayoutLoad]
    split_ifs <;> exact ⟨_, rfl, rfl⟩
  | dataPack ts v =>
    simp only [exec, execDataPack]
    split <;> exact ⟨_, rfl, rfl⟩
  | dataUnpack p =>
    simp only [exec, execDataUnpack]
    split
    · exact ⟨_, rfl, rfl⟩
    · split_ifs <;> exact ⟨_, rfl, rfl⟩
  | rxByte b =>
    refine ⟨_, execRxByte_eq b s, ?_⟩
    rw [rxByte_frame]
    rfl
  | rxTick =>
    rcases rxTick_cases Config.params s with ⟨_, h⟩ | ⟨_, _, h⟩ | ⟨_, _, h⟩ <;>
      exact ⟨_, execRxTick_eq s, by rw [h]; rfl⟩
  | regRead r =>
    rcases execRegRead_cases r s with ⟨g, _, h⟩ | ⟨_, h⟩ <;> exact ⟨_, h, rfl⟩

/-! ### What an operation depends on -/

/-- `u` with the parser state and the receive counters of `s`. -/
def State.withRxOf (u s : State) : State :=
  { u with
    rxState := s.rxState, rxHdr := s.rxHdr, rxLen := s.rxLen, rxCount := s.rxCount
    rxPbuf := s.rxPbuf, rxCbuf := s.rxCbuf, rxStallCnt := s.rxStallCnt
    framesRx := s.framesRx, crcErrors := s.crcErrors, stallAborts := s.stallAborts }

theorem sameRx_withRxOf (u s : State) : SameRx s (u.withRxOf s) :=
  ⟨rfl, rfl, rfl, rfl, rfl, rfl, rfl, rfl, rfl, rfl⟩

theorem eq_withRxOf_of_sameRx {s u : State} (h : SameRx s u) : u = u.withRxOf s := by
  obtain ⟨h1, h2, h3, h4, h5, h6, h7, h8, h9, h10⟩ := h
  unfold State.withRxOf
  rw [h1, h2, h3, h4, h5, h6, h7, h8, h9, h10]

/-- A byte acts on the parser's part alone, wherever that part stands. -/
theorem rxByte_withRxOf (p : Params) (b : U8) (u s : State) :
    rxByte p b (u.withRxOf s) = (u.withRxOf (rxByte p b s).1, (rxByte p b s).2) := by
  unfold rxByte
  cases h : s.rxState <;> simp only [State.withRxOf, h]
  case waitSof1 => unfold rxWaitSof1; split <;> rfl
  case waitSof2 => unfold rxWaitSof2; split_ifs <;> rfl
  case readHeader => unfold rxReadHeader; simp only; split <;> rfl
  case readPayload => unfold rxReadPayload; simp only; split <;> rfl
  case readCrc => unfold rxReadCrc; simp only; split <;> rfl

theorem rxByte_of_sameRx {p : Params} {b : U8} {s s' : State} (h : SameRx s s') :
    rxByte p b s' = (s'.withRxOf (rxByte p b s).1, (rxByte p b s).2) := by
  rw [eq_withRxOf_of_sameRx h, rxByte_withRxOf]
  rfl

theorem rxTick_withRxOf (p : Params) (u s : State) :
    rxTick p (u.withRxOf s) = (u.withRxOf (rxTick p s).1, (rxTick p s).2) := by
  unfold rxTick
  cases h : s.rxState <;> simp only [State.withRxOf, h]
  all_goals split <;> rfl

theorem rxTick_of_sameRx {p : Params} {s s' : State} (h : SameRx s s') :
    rxTick p s' = (s'.withRxOf (rxTick p s).1, (rxTick p s).2) := by
  rw [eq_withRxOf_of_sameRx h, rxTick_withRxOf]
  rfl

@[simp] theorem rxByte_responses (p : Params) (b : U8) (s : State) :
    (rxByte p b s).1.responses = s.responses := by rw [rxByte_frame]

@[simp] theorem rxTick_responses (p : Params) (s : State) :
    (rxTick p s).1.responses = s.responses := by
  rcases rxTick_cases p s with ⟨_, h⟩ | ⟨_, _, h⟩ | ⟨_, _, h⟩ <;> simp [h]

theorem layoutError_congr {s s' : State} (h : SameLayout s s') : layoutError s = layoutError s' := by
  obtain ⟨hvalid, hmap, hbits⟩ := h
  simp only [layoutError, hvalid, hmap, hbits]

/-- Every register shows a part of the state that `REG_READ` may read. -/
theorem readRegister_congr {s s' : State} (p : Params) (r : U8)
    (h : SameForOp (.regRead r) s s') (g : Register) : readRegister p s g = readRegister p s' g := by
  obtain ⟨hcrc, htx, ⟨hvalid, hmap, hbits⟩, hst, _, hlen, hcnt, _, _, hstall, hrx, herr, hab⟩ := h
  cases g <;> simp only [readRegister, hcrc, htx, hvalid, hmap, hbits, hst, hlen, hcnt, hstall, hrx,
    herr, hab]

/-- R39: two states that agree in the operation's part get the same response and still agree in it. -/
theorem exec_congr (i : Instr) {s s' : State} (h : SameForOp i s s') :
    ∃ (t t' : State) (r : Response), exec i s = .next t ∧ exec i s' = .next t' ∧
      SameForOp i t t' ∧ t.responses = s.responses ++ [r] ∧ t'.responses = s'.responses ++ [r] := by
  cases i with
  | crcInit => exact ⟨_, _, _, rfl, rfl, rfl, rfl, rfl⟩
  | crcUpdate b =>
    have hcrc : s.crcAcc = s'.crcAcc := h
    simp only [exec, execCrcUpdate, hcrc]
    exact ⟨_, _, _, rfl, rfl, rfl, rfl, rfl⟩
  | txFrame kind p =>
    have hnext : s.framesTx + 1 = s'.framesTx + 1 := congrArg (· + 1) h
    simp only [exec, execTxFrame]
    split_ifs
    · exact ⟨_, _, _, rfl, rfl, h, rfl, rfl⟩
    · exact ⟨_, _, _, rfl, rfl, h, rfl, rfl⟩
    · exact ⟨_, _, _, rfl, rfl, hnext, rfl, rfl⟩
  | statusPack f => exact ⟨_, _, _, rfl, rfl, trivial, rfl, rfl⟩
  | statusUnpack p =>
    simp only [exec, execStatusUnpack]
    split_ifs <;> exact ⟨_, _, _, rfl, rfl, trivial, rfl, rfl⟩
  | layoutSet map bits => exact ⟨_, _, _, rfl, rfl, ⟨rfl, rfl, rfl⟩, rfl, rfl⟩
  | layoutLoad p =>
    simp only [exec, execLayoutLoad]
    split_ifs
    · exact ⟨_, _, _, rfl, rfl, h, rfl, rfl⟩
    · exact ⟨_, _, _, rfl, rfl, ⟨rfl, rfl, rfl⟩, rfl, rfl⟩
  | dataPack ts v =>
    have ⟨_, hmap, hbits⟩ : SameLayout s s' := h
    simp only [exec, execDataPack, layoutError_congr h, hmap, hbits]
    split <;> exact ⟨_, _, _, rfl, rfl, h, rfl, rfl⟩
  | dataUnpack p =>
    have ⟨_, hmap, hbits⟩ : SameLayout s s' := h
    simp only [exec, execDataUnpack, layoutError_congr h, hmap, hbits]
    split
    · exact ⟨_, _, _, rfl, rfl, h, rfl, rfl⟩
    · split_ifs <;> exact ⟨_, _, _, rfl, rfl, h, rfl, rfl⟩
  | rxByte b =>
    refine ⟨_, _, .ok (.rx (rxByte Config.params b s).2), execRxByte_eq b s, execRxByte_eq b s',
      ?_, by simp, ?_⟩ <;> rw [rxByte_of_sameRx h]
    · exact sameRx_withRxOf s' _
    · rfl
  | rxTick =>
    refine ⟨_, _, .ok (.tick (rxTick Config.params s).2), execRxTick_eq s, execRxTick_eq s',
      ?_, by simp, ?_⟩ <;> rw [rxTick_of_sameRx h]
    · exact sameRx_withRxOf s' _
    · rfl
  | regRead r =>
    rcases execRegRead_cases r s with ⟨g, hg, hs⟩ | ⟨hg, hs⟩
    · have hs' : execRegRead r s' = ret (.reg (readRegister Config.params s g)) s' := by
        rw [readRegister_congr Config.params r h g]
        simp only [execRegRead, hg]
      exact ⟨_, _, _, hs, hs', h, rfl, rfl⟩
    · have hs' : execRegRead r s' = raise .badRegister s' := by simp only [execRegRead, hg]
      exact ⟨_, _, _, hs, hs', h, rfl, rfl⟩

end Sys2Proof.Machine

namespace Sys2Proof

open Machine

/-- Settles O17: what each operation writes, and what its outcome follows from. -/
theorem operationsTouchDisjointParts : Obligations.OperationsTouchDisjointParts :=
  ⟨exec_touches, fun i _ _ h => exec_congr i h⟩

end Sys2Proof
end

section
/-! PROOF. The invariant holds at reset and every step keeps it (spec/10_state.md R36, R38). Its part about
the parser says that the registers and buffers hold the bytes of some frame (`Represents`), and that a byte
keeps that is the refinement. -/

namespace Sys2Proof.Machine

/-! ### The invariant by the frame the parser holds -/

/-- The bounds of R38 hold exactly when the parser holds the bytes of some frame. -/
theorem inv_iff_represents {p : Params} {s : State} :
    Inv p s ↔ (∃ a, Represents s a) ∧ (s.rxState = .waitSof1 → s.rxStallCnt = 0) ∧
      s.rxStallCnt.toNat < p.stallLimit.toNat ∧ s.rxPbuf.wf = true := by
  constructor
  · intro h
    refine ⟨?_, h.idleStall, h.stallBelow, h.pbufWf⟩
    cases hst : s.rxState with
    | waitSof1 => exact ⟨.hunting, hst, h.idleCount (.inl hst)⟩
    | waitSof2 => exact ⟨.sof1Seen, hst, h.idleCount (.inr hst)⟩
    | readHeader => exact ⟨.inFrame _, .inl ⟨hst, h.headerCount hst, rfl⟩⟩
    | readPayload =>
      exact ⟨.inFrame _, .inr (.inl ⟨hst, h.payloadCount hst, (h.payloadLen hst).symm, rfl⟩)⟩
    | readCrc => exact ⟨.inFrame _, .inr (.inr ⟨hst, h.crcCount hst, (h.crcLen hst).symm, rfl⟩)⟩
  · rintro ⟨⟨a, ha⟩, hidle, hstall, hwf⟩
    cases a with
    | hunting =>
      obtain ⟨hst, hcnt⟩ := ha
      constructor <;> simp_all
    | sof1Seen =>
      obtain ⟨hst, hcnt⟩ := ha
      constructor <;> simp_all
    | inFrame got =>
      rcases ha with ⟨hst, hcnt, _⟩ | ⟨hst, hcnt, hlen, _⟩ | ⟨hst, hcnt, hlen, _⟩ <;>
        constructor <;> simp_all

/-! ### What keeps it -/

theorem inv_reset {p : Params} (hp : 0 < p.stallLimit.toNat) : Inv p State.reset :=
  inv_iff_represents.mpr ⟨⟨.hunting, rfl, rfl⟩, fun _ => rfl, hp, Memory.reset_wf⟩

/-- A byte stores at most one byte of the payload buffer. -/
theorem rxByte_rxPbuf (p : Params) (b : U8) (s : State) :
    (rxByte p b s).1.rxPbuf = s.rxPbuf ∨
      (rxByte p b s).1.rxPbuf = s.rxPbuf.write s.rxCount.toNat b := by
  cases hst : s.rxState with
  | waitSof1 => rw [rxByte_waitSof1 hst, rxWaitSof1]; split <;> exact .inl rfl
  | waitSof2 => rw [rxByte_waitSof2 hst, rxWaitSof2]; split_ifs <;> exact .inl rfl
  | readHeader => rw [rxByte_readHeader hst, rxReadHeader]; split <;> exact .inl rfl
  | readPayload => rw [rxByte_readPayload hst, rxReadPayload]; split <;> exact .inr rfl
  | readCrc => rw [rxByte_readCrc hst, rxReadCrc]; split <;> exact .inl rfl

@[simp] theorem rxByte_rxStallCnt (p : Params) (b : U8) (s : State) :
    (rxByte p b s).1.rxStallCnt = 0 := by rw [rxByte_frame]

theorem inv_rxByte {p : Params} {b : U8} {s : State} (hi : Inv p s) : Inv p (rxByte p b s).1 := by
  obtain ⟨⟨a, ha⟩, _, hstall, hwf⟩ := inv_iff_represents.mp hi
  refine inv_iff_represents.mpr
    ⟨⟨_, (parserRefinesTheByteListParser p b s a ha).1⟩, fun _ => rxByte_rxStallCnt p b s, ?_, ?_⟩
  · rw [rxByte_rxStallCnt]
    exact Nat.zero_lt_of_lt hstall
  · rcases rxByte_rxPbuf p b s with h | h <;> rw [h]
    · exact hwf
    · exact Memory.write_wf _ _ _ hwf

theorem inv_stallAbort {p : Params} {s : State} (hi : Inv p s) : Inv p (stallAbort s) :=
  inv_iff_represents.mpr
    ⟨⟨.hunting, rfl, rfl⟩, fun _ => rfl, Nat.zero_lt_of_lt hi.stallBelow, hi.pbufWf⟩

/-- A stall count below its limit may take any value while a frame is open. -/
theorem inv_with_stallCnt {p : Params} {s : State} {n : U32} (hi : Inv p s)
    (hidle : s.rxState = .waitSof1 → n = 0) (hn : n.toNat < p.stallLimit.toNat) :
    Inv p { s with rxStallCnt := n } :=
  { hi with idleStall := hidle, stallBelow := hn }

theorem inv_rxTick {p : Params} {s : State} (hi : Inv p s) : Inv p (rxTick p s).1 := by
  rcases rxTick_cases p s with ⟨_, h⟩ | ⟨hopen, hbelow, h⟩ | ⟨_, _, h⟩ <;> rw [h]
  · exact inv_with_stallCnt hi (fun _ => rfl) (Nat.zero_lt_of_lt hi.stallBelow)
  · exact inv_with_stallCnt hi (fun hidle => absurd hidle hopen) hbelow
  · exact inv_stallAbort hi

theorem inv_respond {p : Params} {s : State} (r : Response) (hi : Inv p s) : Inv p (s.respond r) :=
  { hi with }

/-- Every operation keeps the invariant: the parser's two by the lemmas above, the others because they
write nothing of the parser's part (R39). -/
theorem inv_exec {i : Instr} {s t : State} (hi : Inv Config.params s) (h : exec i s = .next t) :
    Inv Config.params t := by
  obtain ⟨t', ht', htouch⟩ := exec_touches i s
  obtain rfl : t' = t := by rw [ht'] at h; cases h; rfl
  cases i with
  | rxByte b =>
    obtain rfl := (ret_eq_next _ _ _).mp h
    exact inv_respond _ (inv_rxByte hi)
  | rxTick =>
    obtain rfl := (ret_eq_next _ _ _).mp h
    exact inv_respond _ (inv_rxTick hi)
  | _ =>
    rw [htouch]
    exact { hi with }

end Sys2Proof.Machine

namespace Sys2Proof

open Machine

/-- Settles O47: the stall limit is at least 1 (spec/00_scope.md R5). -/
theorem resetMeetsTheInvariant : Obligations.ResetMeetsTheInvariant :=
  inv_reset Config.stallLimit_pos

/-- Settles O48: a step is an operation, the answer to a reserved opcode, a reset or nothing. -/
theorem everyStepKeepsTheInvariant : Obligations.EveryStepKeepsTheInvariant := by
  intro s t hi h
  rcases step_cases h with ⟨i, rest, _, hexec⟩ | ⟨op, rest, _, rfl⟩ | ⟨rest, _, rfl⟩ | ⟨_, rfl⟩
  · exact inv_exec ({ hi with } : Inv _ { s with port := rest }) hexec
  · exact { hi with }
  · exact { resetMeetsTheInvariant with }
  · exact hi

end Sys2Proof
end

section
/-! PROOF. The values after reset (spec/10_state.md R36) and what the four counters count (R33). -/

namespace Sys2Proof.Machine

/-! ### The counters -/

/-- A response adds its events to the four 32-bit counters. -/
def CountsEvents (s t : State) (r : Response) : Prop :=
  t.framesRx = s.framesRx + BitVec.ofNat 32 (eventsOf r).framesRx ∧
  t.crcErrors = s.crcErrors + BitVec.ofNat 32 (eventsOf r).crcErrors ∧
  t.stallAborts = s.stallAborts + BitVec.ofNat 32 (eventsOf r).stallAborts ∧
  t.framesTx = s.framesTx + BitVec.ofNat 32 (eventsOf r).framesTx

/-- A response that reports no event goes with counters that stand. -/
theorem countsEvents_of_quiet {s t : State} {r : Response} (hr : eventsOf r = ⟨0, 0, 0, 0⟩)
    (hrx : t.framesRx = s.framesRx) (hcrc : t.crcErrors = s.crcErrors)
    (habort : t.stallAborts = s.stallAborts) (htx : t.framesTx = s.framesTx) :
    CountsEvents s t r := by
  simp [CountsEvents, hr, hrx, hcrc, habort, htx]

/-- R33: a byte counts the frame it completes, and that frame's wrong CRC. -/
theorem rxByte_countsEvents (p : Params) (b : U8) (s : State) :
    CountsEvents s (rxByte p b s).1 (.ok (.rx (rxByte p b s).2)) := by
  cases hst : s.rxState with
  | waitSof1 =>
    rw [rxByte_waitSof1 hst, rxWaitSof1]
    split <;> exact countsEvents_of_quiet rfl rfl rfl rfl rfl
  | waitSof2 =>
    rw [rxByte_waitSof2 hst, rxWaitSof2]
    split_ifs <;> exact countsEvents_of_quiet rfl rfl rfl rfl rfl
  | readHeader =>
    rw [rxByte_readHeader hst, rxReadHeader]
    split <;> exact countsEvents_of_quiet rfl rfl rfl rfl rfl
  | readPayload =>
    rw [rxByte_readPayload hst, rxReadPayload]
    split <;> exact countsEvents_of_quiet rfl rfl rfl rfl rfl
  | readCrc =>
    rw [rxByte_readCrc hst, rxReadCrc]
    split
    · exact countsEvents_of_quiet rfl rfl rfl rfl rfl
    · simp only [CountsEvents, eventsOf]
      split <;> simp_all

/-- R33: a tick counts the frame it aborts. -/
theorem rxTick_countsEvents (p : Params) (s : State) :
    CountsEvents s (rxTick p s).1 (.ok (.tick (rxTick p s).2)) := by
  rcases rxTick_cases p s with ⟨_, h⟩ | ⟨_, _, h⟩ | ⟨_, _, h⟩ <;> rw [h]
  · exact countsEvents_of_quiet rfl rfl rfl rfl rfl
  · exact countsEvents_of_quiet rfl rfl rfl rfl rfl
  · simp [CountsEvents, eventsOf]

/-- R33: every operation counts what its response reports. -/
theorem exec_countsEvents (i : Instr) (s : State) :
    ∃ (t : State) (r : Response), exec i s = .next (t.respond r) ∧ t.responses = s.responses ∧
      CountsEvents s t r := by
  cases i with
  | crcInit => exact ⟨_, _, rfl, rfl, countsEvents_of_quiet rfl rfl rfl rfl rfl⟩
  | crcUpdate b => exact ⟨_, _, rfl, rfl, countsEvents_of_quiet rfl rfl rfl rfl rfl⟩
  | txFrame kind p =>
    simp only [exec, execTxFrame]
    split_ifs
    · exact ⟨_, _, rfl, rfl, countsEvents_of_quiet rfl rfl rfl rfl rfl⟩
    · exact ⟨_, _, rfl, rfl, countsEvents_of_quiet rfl rfl rfl rfl rfl⟩
    · exact ⟨_, _, rfl, rfl, by simp [CountsEvents, eventsOf]⟩
  | statusPack f => exact ⟨_, _, rfl, rfl, countsEvents_of_quiet rfl rfl rfl rfl rfl⟩
  | statusUnpack p =>
    simp only [exec, execStatusUnpack]
    split_ifs <;> exact ⟨_, _, rfl, rfl, countsEvents_of_quiet rfl rfl rfl rfl rfl⟩
  | layoutSet map bits => exact ⟨_, _, rfl, rfl, countsEvents_of_quiet rfl rfl rfl rfl rfl⟩
  | layoutLoad p =>
    simp only [exec, execLayoutLoad]
    split_ifs <;> exact ⟨_, _, rfl, rfl, countsEvents_of_quiet rfl rfl rfl rfl rfl⟩
  | dataPack ts v =>
    simp only [exec, execDataPack]
    split <;> exact ⟨_, _, rfl, rfl, countsEvents_of_quiet rfl rfl rfl rfl rfl⟩
  | dataUnpack p =>
    simp only [exec, execDataUnpack]
    split
    · exact ⟨_, _, rfl, rfl, countsEvents_of_quiet rfl rfl rfl rfl rfl⟩
    · split_ifs <;> exact ⟨_, _, rfl, rfl, countsEvents_of_quiet rfl rfl rfl rfl rfl⟩
  | rxByte b =>
    exact ⟨_, _, execRxByte_eq b s, rxByte_responses _ _ _, rxByte_countsEvents _ _ _⟩
  | rxTick => exact ⟨_, _, execRxTick_eq s, rxTick_responses _ _, rxTick_countsEvents _ _⟩
  | regRead r =>
    rcases execRegRead_cases r s with ⟨g, _, h⟩ | ⟨_, h⟩ <;>
      exact ⟨_, _, h, rfl, countsEvents_of_quiet rfl rfl rfl rfl rfl⟩

end Sys2Proof.Machine

namespace Sys2Proof

open Machine

/-- Settles O19: each counter grows by what the response reports, as a 32-bit word. -/
theorem countersCountTheirEvents : Obligations.CountersCountTheirEvents := by
  refine ⟨fun i s => ?_, rfl, rfl, rfl, rfl⟩
  obtain ⟨t, r, hexec, hresp, hrx, hcrc, habort, htx⟩ := exec_countsEvents i s
  refine ⟨t.respond r, r, hexec, by rw [State.respond_responses, hresp], ?_⟩
  simp only [State.respond_framesRx, State.respond_crcErrors, State.respond_stallAborts,
    State.respond_framesTx, hrx, hcrc, habort, htx, BitVec.toNat_add, BitVec.toNat_ofNat, Nat.add_mod_mod,
    and_self]

/-- Settles O11: the buffers hold zeros, the other elements their value by the definition of reset. -/
theorem resetValues : Obligations.ResetValues := by
  refine ⟨rfl, rfl, fun i => ?hdr, rfl, rfl, fun i _ => Memory.read_nil i, fun i => ?cbuf, rfl, rfl,
    rfl, fun i => ?bits, rfl, rfl, rfl, rfl⟩
  all_goals exact Vector.getElem_replicate _

end Sys2Proof
end

section
/-! PROOF. Buffer bytes the current frame has not written change no response (spec/10_state.md R40): an
operation does the same on a state and on that state with its stale bytes forgotten, so two states with the
same remainder are answered alike. -/

namespace Sys2Proof.Machine

/-! ### The first elements of a small buffer -/

theorem keepFirst_getElem {k : Nat} (v : Vector U8 k) (n i : Nat) (hi : i < k) :
    (keepFirst v n)[i] = if i < n then v[i] else 0 := by
  simp [keepFirst]

theorem keepFirst_keepFirst_of_le {k m n : Nat} (v : Vector U8 k) (h : n ≤ m) :
    keepFirst (keepFirst v m) n = keepFirst v n := by
  ext1 i hi
  by_cases hin : i < n
  · simp [keepFirst_getElem, hin, hin.trans_le h]
  · simp [keepFirst_getElem, hin]

theorem keepFirst_eq_self {k n : Nat} (v : Vector U8 k) (h : k ≤ n) : keepFirst v n = v := by
  ext1 i hi
  rw [keepFirst_getElem, if_pos (by omega)]

/-- What stands from index `n` on does not matter to the first `n + 1` bytes once byte `n` is stored. -/
theorem keepFirst_setIfInBounds {k : Nat} (v : Vector U8 k) (n : Nat) (b : U8) :
    keepFirst ((keepFirst v n).setIfInBounds n b) (n + 1) =
      keepFirst (v.setIfInBounds n b) (n + 1) := by
  ext1 i hi
  simp only [keepFirst_getElem, Vector.getElem_setIfInBounds]
  rcases lt_trichotomy i n with hin | rfl | hin
  · simp [hin]
  · simp
  · simp [show ¬ i < n + 1 by omega]

/-- The same where byte `n` is the last. -/
theorem keepFirst_setIfInBounds_last {n : Nat} (v : Vector U8 (n + 1)) (b : U8) :
    (keepFirst v n).setIfInBounds n b = v.setIfInBounds n b := by
  have h := keepFirst_setIfInBounds v n b
  rwa [keepFirst_eq_self _ le_rfl, keepFirst_eq_self _ le_rfl] at h

/-! ### The first bytes of the payload buffer -/

/-- The entries of the payload buffer below an index. -/
def Memory.keepBelow (m : Memory) (n : Nat) : Memory := m.filter fun c => decide (c.1 < n)

theorem Memory.keepBelow_cons (k : Nat) (b : U8) (m : Memory) (n : Nat) :
    Memory.keepBelow ((k, b) :: m) n = if k < n then (k, b) :: m.keepBelow n else m.keepBelow n := by
  simp [Memory.keepBelow, List.filter_cons]

theorem Memory.keepBelow_keepBelow_of_le {m n : Nat} (buf : Memory) (h : n ≤ m) :
    (buf.keepBelow m).keepBelow n = buf.keepBelow n := by
  unfold Memory.keepBelow
  rw [List.filter_filter]
  refine List.filter_congr fun c _ => ?_
  simp only [← Bool.decide_and]
  exact decide_eq_decide.mpr (by omega)

theorem Memory.read_keepBelow (m : Memory) {n a : Nat} (h : a < n) :
    (m.keepBelow n).read a = m.read a := by
  induction m with
  | nil => rfl
  | cons c m ih =>
    obtain ⟨k, c⟩ := c
    rw [Memory.keepBelow_cons]
    split_ifs with hk
    · rw [Memory.read_cons, Memory.read_cons, ih]
    · rw [ih, Memory.read_cons, if_neg (by omega)]

theorem Memory.firstBytes_keepBelow (m : Memory) (n : Nat) :
    (m.keepBelow n).firstBytes n = m.firstBytes n :=
  Memory.firstBytes_congr fun _ hk => Memory.read_keepBelow m hk

theorem Memory.keepBelow_erase (m : Memory) (n : Nat) :
    (Memory.erase n m).keepBelow (n + 1) = m.keepBelow n := by
  unfold Memory.keepBelow Memory.erase
  rw [List.filter_filter]
  refine List.filter_congr fun c _ => ?_
  simp only [← Bool.decide_and]
  exact decide_eq_decide.mpr (by omega)

theorem Memory.keepBelow_eq_nil {m : Memory} {n : Nat} (h : ∀ c ∈ m, n ≤ c.1) :
    m.keepBelow n = [] :=
  List.filter_eq_nil_iff.mpr fun c hc => by simpa using h c hc

theorem Memory.keepBelow_insert {m : Memory} (n : Nat) (b : U8)
    (hm : m.Pairwise (fun c d => c.1 < d.1)) :
    (Memory.insert n b m).keepBelow (n + 1) = m.keepBelow n ++ [(n, b)] := by
  induction m with
  | nil => simp [Memory.insert, Memory.keepBelow]
  | cons c m ih =>
    obtain ⟨k, c⟩ := c
    obtain ⟨hk, hm⟩ := List.pairwise_cons.mp hm
    have hnil (h : n ≤ k) : Memory.keepBelow m n = [] ∧ Memory.keepBelow m (n + 1) = [] :=
      ⟨keepBelow_eq_nil fun d hd => (h.trans_lt (hk d hd)).le,
        keepBelow_eq_nil fun d hd => h.trans_lt (hk d hd)⟩
    unfold Memory.insert
    split_ifs with hlt heq
    · simp [Memory.keepBelow_cons, hnil hlt.le, hlt.not_ge, hlt.not_gt]
    · subst heq
      simp [Memory.keepBelow_cons, hnil le_rfl]
    · have hkn : k < n := by omega
      simp [Memory.keepBelow_cons, ih hm, hkn, hkn.le]

/-- Storing byte `n` where the bytes from `n` on are forgotten or not. -/
theorem Memory.keepBelow_write {m : Memory} {n : Nat} (b : U8) (hm : m.wf = true)
    (hn : n < Config.rxBufCap) :
    ((m.keepBelow n).write n b).keepBelow (n + 1) = (m.write n b).keepBelow (n + 1) := by
  have hpw := ((Memory.wf_iff m).mp hm).1
  have hbelow : (m.keepBelow n).Pairwise (fun c d => c.1 < d.1) := hpw.filter _
  have hidem := m.keepBelow_keepBelow_of_le (le_refl n)
  simp only [Memory.write, if_pos hn]
  split
  · rw [Memory.keepBelow_erase, Memory.keepBelow_erase, hidem]
  · rw [Memory.keepBelow_insert n b hpw, Memory.keepBelow_insert n b hbelow, hidem]

/-! ### Forgetting the stale bytes -/

theorem forgetStale_eq (s : State) :
    forgetStale s = { s with
      rxHdr := keepFirst s.rxHdr (hdrWritten s), rxPbuf := s.rxPbuf.keepBelow (pbufWritten s)
      rxCbuf := keepFirst s.rxCbuf (cbufWritten s) } := rfl

@[simp] theorem forgetStale_rxHdr (s : State) :
    (forgetStale s).rxHdr = keepFirst s.rxHdr (hdrWritten s) := rfl
@[simp] theorem forgetStale_rxPbuf (s : State) :
    (forgetStale s).rxPbuf = s.rxPbuf.keepBelow (pbufWritten s) := rfl
@[simp] theorem forgetStale_rxCbuf (s : State) :
    (forgetStale s).rxCbuf = keepFirst s.rxCbuf (cbufWritten s) := rfl
@[simp] theorem forgetStale_rxState (s : State) : (forgetStale s).rxState = s.rxState := rfl
@[simp] theorem forgetStale_rxCount (s : State) : (forgetStale s).rxCount = s.rxCount := rfl
@[simp] theorem forgetStale_rxStallCnt (s : State) :
    (forgetStale s).rxStallCnt = s.rxStallCnt := rfl
@[simp] theorem forgetStale_rxLen (s : State) : (forgetStale s).rxLen = s.rxLen := rfl

/-- Two states differ in the three receive buffers only. -/
def OnlyBuffersDiffer (t u : State) : Prop :=
  t = { u with rxHdr := t.rxHdr, rxPbuf := t.rxPbuf, rxCbuf := t.rxCbuf }

/-- Two states that differ in buffers only, and agree in the bytes written, have the same remainder. -/
theorem forgetStale_congr {t u : State} (h : OnlyBuffersDiffer t u)
    (hhdr : keepFirst t.rxHdr (hdrWritten u) = keepFirst u.rxHdr (hdrWritten u))
    (hpbuf : t.rxPbuf.keepBelow (pbufWritten u) = u.rxPbuf.keepBelow (pbufWritten u))
    (hcbuf : keepFirst t.rxCbuf (cbufWritten u) = keepFirst u.rxCbuf (cbufWritten u)) :
    forgetStale t = forgetStale u := by
  rw [forgetStale_eq u, ← hhdr, ← hpbuf, ← hcbuf, h]
  rfl

theorem forgetStale_idem (s : State) : forgetStale (forgetStale s) = forgetStale s :=
  forgetStale_congr rfl (keepFirst_keepFirst_of_le _ le_rfl)
    (Memory.keepBelow_keepBelow_of_le _ le_rfl) (keepFirst_keepFirst_of_le _ le_rfl)

theorem forgetStale_eq_of_eq {t u : State} (h : u = forgetStale t) : forgetStale u = forgetStale t :=
  h ▸ forgetStale_idem t

/-- What stores no byte and takes none for written keeps the remainder. -/
theorem forgetStale_congr_of_le {s t u : State} (h : OnlyBuffersDiffer t u)
    (ht : t.rxHdr = (forgetStale s).rxHdr ∧ t.rxPbuf = (forgetStale s).rxPbuf ∧
      t.rxCbuf = (forgetStale s).rxCbuf)
    (hu : u.rxHdr = s.rxHdr ∧ u.rxPbuf = s.rxPbuf ∧ u.rxCbuf = s.rxCbuf)
    (hhdr : hdrWritten u ≤ hdrWritten s) (hpbuf : pbufWritten u ≤ pbufWritten s)
    (hcbuf : cbufWritten u ≤ cbufWritten s) : forgetStale t = forgetStale u := by
  obtain ⟨hth, htp, htc⟩ := ht
  obtain ⟨huh, hup, huc⟩ := hu
  refine forgetStale_congr h ?_ ?_ ?_
  · rw [hth, huh]
    exact keepFirst_keepFirst_of_le _ hhdr
  · rw [htp, hup]
    exact Memory.keepBelow_keepBelow_of_le _ hpbuf
  · rw [htc, huc]
    exact keepFirst_keepFirst_of_le _ hcbuf

/-! ### The parser does not see the stale bytes -/

/-- A byte does the same, stale bytes forgotten or not. -/
def ForgetsAlike (p : Params) (b : U8) (s : State) : Prop :=
  forgetStale (rxByte p b (forgetStale s)).1 = forgetStale (rxByte p b s).1 ∧
    (rxByte p b (forgetStale s)).2 = (rxByte p b s).2

theorem forgetsAlike_waitSof1 (p : Params) (b : U8) {s : State} (hst : s.rxState = .waitSof1) :
    ForgetsAlike p b s := by
  have hst' : (forgetStale s).rxState = .waitSof1 := hst
  unfold ForgetsAlike
  by_cases hb : b = Config.sof1
  · subst hb
    rw [rxByte_waitSof1_of_eq hst, rxByte_waitSof1_of_eq hst']
    exact ⟨forgetStale_congr_of_le (s := s) rfl ⟨rfl, rfl, rfl⟩ ⟨rfl, rfl, rfl⟩
      (Nat.zero_le _) (Nat.zero_le _) (Nat.zero_le _), rfl⟩
  · rw [rxByte_waitSof1_of_ne hst hb, rxByte_waitSof1_of_ne hst' hb]
    exact ⟨forgetStale_congr_of_le (s := s) rfl ⟨rfl, rfl, rfl⟩ ⟨rfl, rfl, rfl⟩
      le_rfl le_rfl le_rfl, rfl⟩

theorem forgetsAlike_waitSof2 (p : Params) (b : U8) {s : State} (hst : s.rxState = .waitSof2) :
    ForgetsAlike p b s := by
  have hst' : (forgetStale s).rxState = .waitSof2 := hst
  unfold ForgetsAlike
  by_cases hb : b = Config.sof2
  · subst hb
    rw [rxByte_waitSof2_of_eq hst, rxByte_waitSof2_of_eq hst']
    exact ⟨forgetStale_congr_of_le (s := s) rfl ⟨rfl, rfl, rfl⟩ ⟨rfl, rfl, rfl⟩
      (Nat.zero_le _) (Nat.zero_le _) (Nat.zero_le _), rfl⟩
  · rw [rxByte_waitSof2_of_ne hst hb, rxByte_waitSof2_of_ne hst' hb]
    split_ifs <;>
      exact ⟨forgetStale_congr_of_le (s := s) rfl ⟨rfl, rfl, rfl⟩ ⟨rfl, rfl, rfl⟩
        (Nat.zero_le _) (Nat.zero_le _) (Nat.zero_le _), rfl⟩

/-- A header byte joins those the frame has written. -/
theorem forgetsAlike_readHeader (p : Params) (b : U8) {s : State} (hst : s.rxState = .readHeader)
    (hcnt : s.rxCount.toNat ≤ 3) : ForgetsAlike p b s := by
  have hst' : (forgetStale s).rxState = .readHeader := hst
  have hwritten : hdrWritten s = s.rxCount.toNat := by simp only [hdrWritten, hst]
  unfold ForgetsAlike
  by_cases hlast : s.rxCount.toNat = 3
  · have hhdr : (forgetStale s).rxHdr.setIfInBounds 3 b = s.rxHdr.setIfInBounds 3 b := by
      rw [forgetStale_rxHdr, hwritten, hlast]
      exact keepFirst_setIfInBounds_last s.rxHdr b
    rw [rxByte_readHeader_of_eq hst hlast, rxByte_readHeader_of_eq hst' hlast, hhdr]
    by_cases hlen : headerLength (s.rxHdr.setIfInBounds 3 b) = 0
    · rw [if_pos hlen, hlen]
      exact ⟨forgetStale_congr rfl rfl (Memory.keepBelow_keepBelow_of_le _ (Nat.zero_le _))
        (keepFirst_keepFirst_of_le _ (Nat.zero_le _)), rfl⟩
    · rw [if_neg hlen]
      exact ⟨forgetStale_congr rfl rfl (Memory.keepBelow_keepBelow_of_le _ (Nat.zero_le _))
        (keepFirst_keepFirst_of_le _ (Nat.zero_le _)), rfl⟩
  · have hlt : s.rxCount.toNat < 3 := by omega
    have hnext : (s.rxCount + 1).toNat = s.rxCount.toNat + 1 := by bv_omega
    rw [rxByte_readHeader_of_lt hst hlt, rxByte_readHeader_of_lt hst' hlt]
    refine ⟨forgetStale_congr rfl ?_ ?_ ?_, rfl⟩
    · simp only [hdrWritten, hst, hnext, forgetStale_rxHdr, forgetStale_rxCount]
      exact keepFirst_setIfInBounds _ _ _
    · simp only [pbufWritten, hst, forgetStale_rxPbuf]
      exact Memory.keepBelow_keepBelow_of_le _ (Nat.zero_le _)
    · simp only [cbufWritten, hst, forgetStale_rxCbuf]
      exact keepFirst_keepFirst_of_le _ (Nat.zero_le _)

/-- A payload byte joins those the frame has written. -/
theorem forgetsAlike_readPayload (p : Params) (b : U8) {s : State} (hst : s.rxState = .readPayload)
    (hcnt : s.rxCount.toNat < s.rxLen.toNat) (hwf : s.rxPbuf.wf = true) : ForgetsAlike p b s := by
  have hst' : (forgetStale s).rxState = .readPayload := hst
  have hcap : s.rxCount.toNat < 65535 := by have := s.rxLen.isLt; omega
  have hnext : (s.rxCount + 1).toNat = s.rxCount.toNat + 1 := by bv_omega
  have hwritten : pbufWritten s = s.rxCount.toNat := by simp only [pbufWritten, hst]
  have hstore := Memory.keepBelow_write b hwf hcap
  rw [← hwritten, ← forgetStale_rxPbuf, hwritten] at hstore
  have hhdr : hdrWritten s = 4 := by simp only [hdrWritten, hst]
  unfold ForgetsAlike
  by_cases hlast : s.rxCount + 1 = s.rxLen
  · rw [rxByte_readPayload_of_eq hst hlast, rxByte_readPayload_of_eq hst' hlast]
    refine ⟨forgetStale_congr rfl ?_ ?_ ?_, rfl⟩
    · exact keepFirst_keepFirst_of_le _ hhdr.ge
    · simpa only [pbufWritten, ← hlast, hnext, forgetStale_rxCount] using hstore
    · exact keepFirst_keepFirst_of_le _ (Nat.zero_le _)
  · rw [rxByte_readPayload_of_ne hst hlast, rxByte_readPayload_of_ne hst' hlast]
    refine ⟨forgetStale_congr rfl ?_ ?_ ?_, rfl⟩
    · simp only [hdrWritten, hst, forgetStale_rxHdr]
      exact keepFirst_keepFirst_of_le _ le_rfl
    · simpa only [pbufWritten, hst, hnext, forgetStale_rxCount] using hstore
    · simp only [cbufWritten, hst, forgetStale_rxCbuf]
      exact keepFirst_keepFirst_of_le _ le_rfl

/-- The second CRC byte makes the CRC whole. -/
theorem rxCbuf_forgetStale {s : State} (b : U8) (hst : s.rxState = .readCrc) (hcnt : s.rxCount = 1) :
    (forgetStale s).rxCbuf.setIfInBounds 1 b = s.rxCbuf.setIfInBounds 1 b := by
  simp only [forgetStale_rxCbuf, cbufWritten, hst, hcnt]
  exact keepFirst_setIfInBounds_last s.rxCbuf b

/-- The frame completed is made of written bytes alone (R211). -/
theorem heldFrame_forgetStale {s : State} (b : U8) (hst : s.rxState = .readCrc)
    (hcnt : s.rxCount = 1) :
    heldFrame { forgetStale s with rxCbuf := (forgetStale s).rxCbuf.setIfInBounds 1 b } =
      heldFrame { s with rxCbuf := s.rxCbuf.setIfInBounds 1 b } := by
  have hhdr : (forgetStale s).rxHdr = s.rxHdr := by
    simpa only [forgetStale_rxHdr, hdrWritten, hst] using keepFirst_eq_self _ le_rfl
  have hpbuf : (forgetStale s).rxPbuf.firstBytes s.rxLen.toNat = s.rxPbuf.firstBytes s.rxLen.toNat := by
    simpa only [forgetStale_rxPbuf, pbufWritten, hst] using Memory.firstBytes_keepBelow _ _
  simp only [heldFrame, hhdr, forgetStale_rxLen, hpbuf, rxCbuf_forgetStale b hst hcnt]

/-- The first CRC byte joins the written ones, the second ends the frame. -/
theorem forgetsAlike_readCrc (p : Params) (b : U8) {s : State} (hst : s.rxState = .readCrc)
    (hcnt : s.rxCount.toNat ≤ 1) : ForgetsAlike p b s := by
  have hst' : (forgetStale s).rxState = .readCrc := hst
  unfold ForgetsAlike
  by_cases hfirst : s.rxCount = 0
  · rw [rxByte_readCrc_of_zero hst hfirst, rxByte_readCrc_of_zero hst' hfirst]
    refine ⟨forgetStale_congr rfl ?_ ?_ ?_, rfl⟩
    · simp only [hdrWritten, hst, forgetStale_rxHdr]
      exact keepFirst_keepFirst_of_le _ le_rfl
    · simp only [pbufWritten, hst, forgetStale_rxPbuf]
      exact Memory.keepBelow_keepBelow_of_le _ le_rfl
    · simp only [cbufWritten, hst, hfirst, forgetStale_rxCbuf]
      exact keepFirst_setIfInBounds s.rxCbuf 0 b
  · have hlast : s.rxCount = 1 := by bv_omega
    rw [rxByte_readCrc_of_one hst hlast, rxByte_readCrc_of_one hst' hlast,
      heldFrame_forgetStale b hst hlast, rxCbuf_forgetStale b hst hlast]
    exact ⟨forgetStale_congr rfl (keepFirst_keepFirst_of_le _ (Nat.zero_le _))
      (Memory.keepBelow_keepBelow_of_le _ (Nat.zero_le _)) rfl, rfl⟩

/-- A byte does the same, stale bytes forgotten or not, in every state of the invariant. -/
theorem forgetsAlike_of_inv {p : Params} (b : U8) {s : State} (hi : Inv p s) : ForgetsAlike p b s := by
  cases hst : s.rxState with
  | waitSof1 => exact forgetsAlike_waitSof1 p b hst
  | waitSof2 => exact forgetsAlike_waitSof2 p b hst
  | readHeader => exact forgetsAlike_readHeader p b hst (hi.headerCount hst)
  | readPayload => exact forgetsAlike_readPayload p b hst (hi.payloadCount hst) hi.pbufWf
  | readCrc => exact forgetsAlike_readCrc p b hst (hi.crcCount hst)

theorem rxTick_of_idle {p : Params} {s : State} (hidle : s.rxState = .waitSof1) :
    rxTick p s = ({ s with rxStallCnt := 0 }, false) := by
  rcases rxTick_cases p s with ⟨_, h⟩ | ⟨hopen, _⟩ | ⟨hopen, _⟩
  · exact h
  · exact absurd hidle hopen
  · exact absurd hidle hopen

theorem rxTick_of_below {p : Params} {s : State} (hopen : s.rxState ≠ .waitSof1)
    (hbelow : (s.rxStallCnt + 1).toNat < p.stallLimit.toNat) :
    rxTick p s = ({ s with rxStallCnt := s.rxStallCnt + 1 }, false) := by
  rcases rxTick_cases p s with ⟨hidle, _⟩ | ⟨_, _, h⟩ | ⟨_, hlimit, _⟩
  · exact absurd hidle hopen
  · exact h
  · exact absurd hbelow hlimit.not_gt

theorem rxTick_of_limit {p : Params} {s : State} (hopen : s.rxState ≠ .waitSof1)
    (hlimit : p.stallLimit.toNat ≤ (s.rxStallCnt + 1).toNat) :
    rxTick p s = (stallAbort s, true) := by
  rcases rxTick_cases p s with ⟨hidle, _⟩ | ⟨_, hbelow, _⟩ | ⟨_, _, h⟩
  · exact absurd hidle hopen
  · exact absurd hbelow hlimit.not_gt
  · exact h

/-- So does a tick, which reads no buffer. -/
theorem rxTick_forgetStale (p : Params) (s : State) :
    forgetStale (rxTick p (forgetStale s)).1 = forgetStale (rxTick p s).1 ∧
      (rxTick p (forgetStale s)).2 = (rxTick p s).2 := by
  rcases rxTick_cases p s with ⟨hidle, h⟩ | ⟨hopen, hbelow, h⟩ | ⟨hopen, hlimit, h⟩
  · rw [h, rxTick_of_idle (s := forgetStale s) hidle]
    exact ⟨forgetStale_congr_of_le (s := s) rfl ⟨rfl, rfl, rfl⟩ ⟨rfl, rfl, rfl⟩ le_rfl le_rfl le_rfl,
      rfl⟩
  · rw [h, rxTick_of_below (s := forgetStale s) hopen hbelow]
    exact ⟨forgetStale_congr_of_le (s := s) rfl ⟨rfl, rfl, rfl⟩ ⟨rfl, rfl, rfl⟩ le_rfl le_rfl le_rfl,
      rfl⟩
  · rw [h, rxTick_of_limit (s := forgetStale s) hopen hlimit]
    exact ⟨forgetStale_congr_of_le (s := s) rfl ⟨rfl, rfl, rfl⟩ ⟨rfl, rfl, rfl⟩
      (Nat.zero_le _) (Nat.zero_le _) (Nat.zero_le _), rfl⟩

/-! ### No operation sees them -/

theorem forgetStale_respond {t u : State} (h : forgetStale u = forgetStale t) (r : Response) :
    forgetStale (u.respond r) = forgetStale (t.respond r) :=
  congrArg (State.respond · r) h

theorem readRegister_forgetStale (p : Params) (s : State) (g : Register) :
    readRegister p (forgetStale s) g = readRegister p s g := by
  cases g <;> rfl

/-- R40: an operation does the same, stale bytes forgotten or not. -/
theorem exec_forgetStale (i : Instr) {s : State} (hi : Inv Config.params s) :
    ∃ t u : State, exec i s = .next t ∧ exec i (forgetStale s) = .next u ∧
      forgetStale u = forgetStale t := by
  cases i with
  | crcInit => exact ⟨_, _, rfl, rfl, forgetStale_eq_of_eq rfl⟩
  | crcUpdate b => exact ⟨_, _, rfl, rfl, forgetStale_eq_of_eq rfl⟩
  | txFrame kind p =>
    simp only [exec, execTxFrame]
    split_ifs <;> exact ⟨_, _, rfl, rfl, forgetStale_eq_of_eq rfl⟩
  | statusPack f => exact ⟨_, _, rfl, rfl, forgetStale_eq_of_eq rfl⟩
  | statusUnpack p =>
    simp only [exec, execStatusUnpack]
    split_ifs <;> exact ⟨_, _, rfl, rfl, forgetStale_eq_of_eq rfl⟩
  | layoutSet map bits => exact ⟨_, _, rfl, rfl, forgetStale_eq_of_eq rfl⟩
  | layoutLoad p =>
    simp only [exec, execLayoutLoad]
    split_ifs <;> exact ⟨_, _, rfl, rfl, forgetStale_eq_of_eq rfl⟩
  | dataPack ts v =>
    have hlayout : SameLayout (forgetStale s) s := ⟨rfl, rfl, rfl⟩
    have ⟨_, hmap, hbits⟩ := hlayout
    simp only [exec, execDataPack, layoutError_congr hlayout, hmap, hbits]
    split <;> exact ⟨_, _, rfl, rfl, forgetStale_eq_of_eq rfl⟩
  | dataUnpack p =>
    have hlayout : SameLayout (forgetStale s) s := ⟨rfl, rfl, rfl⟩
    have ⟨_, hmap, hbits⟩ := hlayout
    simp only [exec, execDataUnpack, layoutError_congr hlayout, hmap, hbits]
    split
    · exact ⟨_, _, rfl, rfl, forgetStale_eq_of_eq rfl⟩
    · split_ifs <;> exact ⟨_, _, rfl, rfl, forgetStale_eq_of_eq rfl⟩
  | rxByte b =>
    obtain ⟨hrest, hframe⟩ := forgetsAlike_of_inv b hi
    refine ⟨_, _, execRxByte_eq b s, execRxByte_eq b (forgetStale s), ?_⟩
    rw [hframe]
    exact forgetStale_respond hrest _
  | rxTick =>
    obtain ⟨hrest, habort⟩ := rxTick_forgetStale Config.params s
    refine ⟨_, _, execRxTick_eq s, execRxTick_eq (forgetStale s), ?_⟩
    rw [habort]
    exact forgetStale_respond hrest _
  | regRead r =>
    rcases execRegRead_cases r s with ⟨g, hg, hs⟩ | ⟨hg, hs⟩
    · have hs' : execRegRead r (forgetStale s) =
          ret (.reg (readRegister Config.params s g)) (forgetStale s) := by
        simp only [execRegRead, hg, readRegister_forgetStale]
      exact ⟨_, _, hs, hs', forgetStale_eq_of_eq rfl⟩
    · have hs' : execRegRead r (forgetStale s) = raise .badRegister (forgetStale s) := by
        simp only [execRegRead, hg]
      exact ⟨_, _, hs, hs', forgetStale_eq_of_eq rfl⟩

end Sys2Proof.Machine

namespace Sys2Proof

open Machine

/-- Settles O56: both states act as the one state in which their stale bytes are forgotten. -/
theorem staleBufferBytesAreNotObservable : Obligations.StaleBufferBytesAreNotObservable := by
  intro i s s' hi hi' hsame
  obtain ⟨t, u, ht, hu, hut⟩ := exec_forgetStale i hi
  obtain ⟨t', u', ht', hu', hut'⟩ := exec_forgetStale i hi'
  have hrest : forgetStale t = forgetStale t' := by
    rw [hsame, hu'] at hu
    cases hu
    rw [← hut, hut']
  have hresp : (forgetStale t).responses = (forgetStale t').responses := congrArg State.responses hrest
  exact ⟨t, t', ht, ht', hrest, hresp⟩

end Sys2Proof
end

section
/-! PROOF. The request at the front of the port is performed as what it encodes (spec/20_memory.md R59,
spec/30_encoding.md R82 to R84): every field of an operand layout reads back from its offset, so decoding
undoes encoding, and the step performs the decoded request. -/

namespace Sys2Proof.Machine

/-! ### Fields at an offset

A layout is read front to back: `s.drop o = field ++ t` says that a field stands at offset `o`, and the next
field stands behind it. -/

theorem drop_add_of_drop_eq_append {s f t : List U8} {o w : Nat} (h : s.drop o = f ++ t)
    (hw : f.length = w) : s.drop (o + w) = t := by
  rw [← List.drop_drop, h, List.drop_left' hw]

theorem u16At_of_take_drop {s : List U8} {o : Nat} {v : U16} (h : (s.drop o).take 2 = le16 v) :
    u16At s o = v := by
  simp [u16At, slice, h]

theorem u32At_of_take_drop {s : List U8} {o : Nat} {v : U32} (h : (s.drop o).take 4 = le32 v) :
    u32At s o = v := by
  simp [u32At, slice, h]

theorem u16At_of_drop_eq_append {s t : List U8} {o : Nat} {v : U16} (h : s.drop o = le16 v ++ t) :
    u16At s o = v :=
  u16At_of_take_drop (by rw [h, List.take_left' (le16_length v)])

theorem u32At_of_drop_eq_append {s t : List U8} {o : Nat} {v : U32} (h : s.drop o = le32 v ++ t) :
    u32At s o = v :=
  u32At_of_take_drop (by rw [h, List.take_left' (le32_length v)])

/-- Elements of one width laid end to end from offset `o` on: element `i` stands at `o + w × i`. -/
theorem take_drop_of_drop_eq_flatMap {α : Type} {f : α → List U8} {w : Nat} (hf : ∀ x, (f x).length = w)
    {l : List α} {s t : List U8} {o : Nat} (h : s.drop o = l.flatMap f ++ t) {i : Nat}
    (hi : i < l.length) : (s.drop (o + w * i)).take w = f l[i] := by
  have hlen : (l.flatMap f).length = l.length * w := flatMap_length_const f w l fun x _ => hf x
  have hfits : i * w + w ≤ l.length * w := by
    rw [← Nat.succ_mul]
    exact Nat.mul_le_mul_right w hi
  rw [Nat.mul_comm, ← List.drop_drop, h, List.drop_append_of_le_length (by omega),
    List.take_append_of_le_length (by rw [List.length_drop]; omega)]
  exact flatMap_field f w l (fun x _ => hf x) i hi

theorem sensorBytes_of_drop_eq_append {s t : List U8} {o : Nat} {v : PerSensor U8}
    (h : s.drop o = v.toList ++ t) : sensorBytes s o = v := by
  ext i hi : 1
  have hread : s[o + i]? = some v[i] := by
    rw [← List.getElem?_drop, h, List.getElem?_append_left (by simpa using hi)]
    simp [hi]
  simp [byteAt, hread]

theorem sensorHalves_of_drop_eq_append {s t : List U8} {o : Nat} {v : PerSensor U16}
    (h : s.drop o = v.toList.flatMap le16 ++ t) : sensorHalves s o = v := by
  ext i hi : 1
  rw [sensorHalves_getElem]
  exact u16At_of_take_drop (take_drop_of_drop_eq_flatMap le16_length h (by simpa using hi))

theorem sensorWords_of_drop_eq_append {s t : List U8} {o : Nat} {v : PerSensor U32}
    (h : s.drop o = v.toList.flatMap le32 ++ t) : sensorWords s o = v := by
  ext i hi : 1
  rw [sensorWords_getElem]
  exact u32At_of_take_drop (take_drop_of_drop_eq_flatMap le32_length h (by simpa using hi))

/-! ### The operands of a fixed length read back -/

/-- The Status payload without its padding (R75, R83 format `OF`). -/
def statusFieldBytes (r : StatusRecord) : List U8 :=
  [r.state, r.nSensors] ++ le32 r.activeMap ++ le32 r.healthMap
    ++ r.sampRateMap.toList.flatMap le16
    ++ r.bitsPerSmpMap.toList
    ++ r.sensorRoleMap.toList
    ++ le16 r.adcFlags ++ le16 r.reserved

theorem statusBytes_eq_append (r : StatusRecord) : statusBytes r = statusFieldBytes r ++ [0x00, 0x00] := rfl

@[simp] theorem statusFieldBytes_length (r : StatusRecord) :
    (statusFieldBytes r).length = Config.statusFieldsLen := by
  have h := statusBytes_length r
  rw [statusBytes_eq_append, List.length_append] at h
  exact Nat.add_right_cancel h

/-- R75, R141: the fields of a record read back from its layout, whatever stands in the padding. -/
theorem statusFields_statusFieldBytes_append (r : StatusRecord) (t : List U8) :
    statusFields (statusFieldBytes r ++ t) = r := by
  have h2 : (statusFieldBytes r ++ t).drop 2 = le32 r.activeMap ++ (le32 r.healthMap ++
      (r.sampRateMap.toList.flatMap le16 ++ (r.bitsPerSmpMap.toList ++ (r.sensorRoleMap.toList ++
        (le16 r.adcFlags ++ (le16 r.reserved ++ t)))))) := by
    simp only [statusFieldBytes, List.append_assoc]
    rfl
  have h6 := drop_add_of_drop_eq_append h2 (le32_length _)
  have h10 := drop_add_of_drop_eq_append h6 (le32_length _)
  have h74 := drop_add_of_drop_eq_append h10
    (flatMap_length_const le16 2 _ fun x _ => le16_length x)
  rw [Vector.length_toList] at h74
  have h106 := drop_add_of_drop_eq_append h74 (Vector.length_toList ..)
  have h138 := drop_add_of_drop_eq_append h106 (Vector.length_toList ..)
  have h140 := drop_add_of_drop_eq_append h138 (le16_length _)
  rw [statusFields, u32At_of_drop_eq_append h2, u32At_of_drop_eq_append h6,
    sensorHalves_of_drop_eq_append h10, sensorBytes_of_drop_eq_append h74,
    sensorBytes_of_drop_eq_append h106, u16At_of_drop_eq_append h138, u16At_of_drop_eq_append h140]
  rfl

/-- The operand bytes of LAYOUT_SET (R83 format `OL`) read back. -/
theorem layoutOperands_read (map : U32) (bits : PerSensor U8) :
    u32At (le32 map ++ bits.toList) 0 = map ∧ sensorBytes (le32 map ++ bits.toList) 4 = bits := by
  have h0 : (le32 map ++ bits.toList).drop 0 = le32 map ++ bits.toList := rfl
  have h4 := drop_add_of_drop_eq_append h0 (le32_length map)
  exact ⟨u32At_of_drop_eq_append h0, sensorBytes_of_drop_eq_append (h4.trans (List.append_nil _).symm)⟩

/-- The operand bytes of DATA_PACK (R83 format `OD`) read back. -/
theorem dataOperands_read (ts : U32) (v : PerSensor U32) :
    u32At (le32 ts ++ v.toList.flatMap le32) 0 = ts ∧
      sensorWords (le32 ts ++ v.toList.flatMap le32) 4 = v := by
  have h0 : (le32 ts ++ v.toList.flatMap le32).drop 0 = le32 ts ++ v.toList.flatMap le32 := rfl
  have h4 := drop_add_of_drop_eq_append h0 (le32_length ts)
  exact ⟨u32At_of_drop_eq_append h0, sensorWords_of_drop_eq_append (h4.trans (List.append_nil _).symm)⟩

end Sys2Proof.Machine

namespace Sys2Proof

open Machine

/-! ### Decoding undoes encoding -/

theorem splitBytes_append_of_length {n : Nat} {a : List U8} (h : a.length = n) (rest : List U8) :
    splitBytes n (a ++ rest) = some (a, rest) :=
  h ▸ splitBytes_append a rest

/-- R83: the operands of a well-formed instruction read back, whatever follows them. -/
theorem decodeOperands_encodeOperands_append (i : Instr) (rest : List U8) (h : i.wellFormed = true) :
    decodeOperands i.opcode (encodeOperands i ++ rest) = some (i, rest) := by
  cases i with
  | crcInit | crcUpdate | rxByte | rxTick | regRead => rfl
  | txFrame kind s =>
    simp only [decodeOperands, Instr.opcode, encodeOperands, List.cons_append,
      splitCounted_append s rest (of_decide_eq_true h), Option.map_some]
  | statusUnpack s | layoutLoad s | dataUnpack s =>
    simp only [decodeOperands, Instr.opcode, encodeOperands,
      splitCounted_append s rest (of_decide_eq_true h), Option.map_some]
  | statusPack f =>
    have hfields : (statusBytes f).take Config.statusFieldsLen = statusFieldBytes f := by
      rw [statusBytes_eq_append, List.take_left' (statusFieldBytes_length f)]
    have hread : statusFields (statusFieldBytes f) = f := by
      simpa using statusFields_statusFieldBytes_append f []
    simp only [decodeOperands, Instr.opcode, encodeOperands, hfields,
      splitBytes_append_of_length (statusFieldBytes_length f) rest, Option.map_some, hread]
  | layoutSet map bits =>
    obtain ⟨hmap, hbits⟩ := layoutOperands_read map bits
    have hlen : (le32 map ++ bits.toList).length = 36 := by simp
    simp only [decodeOperands, Instr.opcode, encodeOperands,
      splitBytes_append_of_length hlen rest, Option.map_some, hmap, hbits]
  | dataPack ts v =>
    obtain ⟨hts, hv⟩ := dataOperands_read ts v
    have hlen : (le32 ts ++ v.toList.flatMap le32).length = 132 := by
      rw [List.length_append, flatMap_length_const le32 4 _ fun x _ => le32_length x, le32_length,
        Vector.length_toList]
    simp only [decodeOperands, Instr.opcode, encodeOperands,
      splitBytes_append_of_length hlen rest, Option.map_some, hts, hv]

/-- R82 to R84: the byte form of a well-formed instruction reads back, whatever follows it. -/
theorem decode_encode_append (i : Instr) (rest : List U8) (h : i.wellFormed = true) :
    decode (encode i ++ rest) = .request i rest := by
  rw [encode, List.cons_append, decode_code, decodeOperands_encodeOperands_append i rest h]

/-! ### The step on a whole request -/

namespace Machine

theorem fetch_of_decode_request {port : List HostInput} {i : Instr} {rest : List U8}
    (h : decode (leadingBytes port) = .request i rest) :
    fetch port = .request i (asInput rest ++ afterLeadingBytes port) := by
  simp only [fetch, h]

theorem step_of_fetch_request {s : State} {i : Instr} {rest : List HostInput}
    (h : fetch s.port = .request i rest) : step s = exec i { s with port := rest } := by
  simp only [step, h]

theorem fetch_encode_append {i : Instr} (hwf : i.wellFormed = true) (rest : List HostInput) :
    fetch (asInput (encode i) ++ rest) = .request i rest := by
  have hdecode : decode (leadingBytes (asInput (encode i) ++ rest)) = .request i (leadingBytes rest) := by
    rw [leadingBytes_asInput_append, decode_encode_append i _ hwf]
  rw [fetch_of_decode_request hdecode, afterLeadingBytes_asInput_append, asInput_leadingBytes]

end Machine

/-- Settles O7: the decoded request is the one fetched. -/
theorem stepRunsTheDecodedRequest : Obligations.StepRunsTheDecodedRequest := fun _ _ _ h =>
  step_of_fetch_request (fetch_of_decode_request h)

/-- Settles O8: the encoding decodes to the request, and the tail of the port is put back together. -/
theorem stepRunsTheEncodedRequest : Obligations.StepRunsTheEncodedRequest := by
  intro s i rest hwf hport
  have hfetch : fetch s.port = .request i rest := hport ▸ fetch_encode_append hwf rest
  exact step_of_fetch_request hfetch

end Sys2Proof
end

section
/-! PROOF. The idempotent operations (spec/20_memory.md R57). One that writes nothing answers from a part of
the state that its response is not in (R39); the other three write values that do not depend on the
state. -/

namespace Sys2Proof.Machine

/-- Done again, the operation adds the same response to the state it left, and nothing else. -/
def Repeats (i : Instr) (s : State) : Prop :=
  ∃ (u : State) (r : Response), exec i s = .next (u.respond r) ∧ u.responses = s.responses ∧
    exec i (u.respond r) = .next ((u.respond r).respond r)

/-- No operation reads the responses returned so far. -/
theorem sameForOp_respond (i : Instr) (s : State) (r : Response) : SameForOp i s (s.respond r) := by
  cases i <;> simp [SameForOp, SameLayout, SameRx]

/-- An operation that R39 lets write nothing adds its response to the state. -/
theorem eq_respond_of_onlyAnswers {i : Instr} {s t : State} {r : Response}
    (hquiet : Touches i = OnlyAnswers) (h : exec i s = .next t) (hr : t.responses = s.responses ++ [r]) :
    t = s.respond r := by
  obtain ⟨t', ht', htouch⟩ := exec_touches i s
  obtain rfl : t' = t := by rw [ht'] at h; cases h; rfl
  rw [hquiet, OnlyAnswers, hr] at htouch
  exact htouch

/-- An operation that writes nothing gives the same response after its own response. -/
theorem repeats_of_onlyAnswers {i : Instr} (hquiet : Touches i = OnlyAnswers) (s : State) :
    Repeats i s := by
  obtain ⟨u, r, hu, hresp, _⟩ := exec_answers i s
  have hfirst : exec i s = .next (s.respond r) := by
    rw [hu, eq_respond_of_onlyAnswers hquiet hu (by rw [State.respond_responses, hresp])]
  obtain ⟨t, t', r', ht, ht', _, hr, hr'⟩ := exec_congr i (sameForOp_respond i s r)
  obtain rfl : r = r' := by
    rw [hfirst] at ht
    cases ht
    simpa using hr
  exact ⟨s, r, hfirst, rfl, by rw [ht', eq_respond_of_onlyAnswers hquiet ht' hr']⟩

/-- R57: the operations it does not except. -/
theorem repeats_of_isIdempotent {i : Instr} (h : isIdempotent i = true) (s : State) : Repeats i s := by
  cases i with
  | crcInit => exact ⟨_, _, rfl, rfl, rfl⟩
  | layoutSet map bits => exact ⟨_, _, rfl, rfl, rfl⟩
  | layoutLoad p =>
    simp only [Repeats, exec, execLayoutLoad]
    split_ifs <;> exact ⟨_, _, rfl, rfl, rfl⟩
  | statusPack | statusUnpack | dataPack | dataUnpack | regRead => exact repeats_of_onlyAnswers rfl s
  | crcUpdate | txFrame | rxByte | rxTick => exact absurd h Bool.false_ne_true

end Sys2Proof.Machine

namespace Sys2Proof

open Machine

/-- Settles O18: the second response stands behind the first, and nothing else changes. -/
theorem otherOperationsAreIdempotent : Obligations.OtherOperationsAreIdempotent := by
  intro i s h
  obtain ⟨u, r, hfirst, hresp, hsecond⟩ := repeats_of_isIdempotent h s
  refine ⟨u.respond r, r, hfirst, by rw [State.respond_responses, hresp], ?_⟩
  rw [hsecond]
  simp [State.respond, hresp]

end Sys2Proof
end

section
/-! PROOF. The byte form of requests and responses (spec/30_encoding.md R82 to R87): the fields read from
a layout, written out again, are the bytes they were read from, so encoding undoes decoding; a request
ends where its first bytes tell; the reserved opcodes; the response of every operation and the bytes of
every result. -/

namespace Sys2Proof.Machine

/-! ### Fields written out again

A layout is covered front to back by slices: each field is the slice it was read from, and neighbouring
slices join. -/

theorem slice_zero_eq_take (s : List U8) (n : Nat) : slice s 0 n = s.take n := rfl

theorem slice_append_slice (s : List U8) {a b c : Nat} (hab : a ≤ b) (hbc : b ≤ c) :
    slice s a b ++ slice s b c = slice s a c := by
  have hc : c - a = (b - a) + (c - b) := by omega
  have hb : a + (b - a) = b := by omega
  simp only [slice]
  rw [hc, List.take_add, List.drop_drop, hb]

/-- The value of `w` bytes fits in `w` bytes, and is written out again as those bytes. -/
theorem leBytes_fromLe_slice {s : List U8} {a w : Nat} (h : a + w ≤ s.length) :
    leBytes w (fromLe (slice s a (a + w)) % 256 ^ w) = slice s a (a + w) := by
  have hlen : (slice s a (a + w)).length = w := by
    rw [slice_length]
    omega
  have hlt := fromLe_lt (slice s a (a + w))
  have hall := leBytes_fromLe (slice s a (a + w))
  rw [hlen] at hlt hall
  rw [Nat.mod_eq_of_lt hlt, hall]

theorem singleton_byteAt {s : List U8} {a : Nat} (h : a < s.length) :
    [byteAt s a] = slice s a (a + 1) := by
  simp [byteAt, slice, List.take_one, List.head?_drop, h]

theorem le16_u16At {s : List U8} {a : Nat} (h : a + 2 ≤ s.length) :
    le16 (u16At s a) = slice s a (a + 2) := by
  rw [le16, u16At, BitVec.toNat_ofNat]
  exact leBytes_fromLe_slice h

theorem le32_u32At {s : List U8} {a : Nat} (h : a + 4 ≤ s.length) :
    le32 (u32At s a) = slice s a (a + 4) := by
  rw [le32, u32At, BitVec.toNat_ofNat]
  exact leBytes_fromLe_slice h

/-- Elements read side by side, `w` bytes each, written out again. -/
theorem flatMap_ofFn_eq_slice {α : Type} {f : α → List U8} {g : Nat → α} {s : List U8} {a w : Nat} (n : Nat)
    (h : ∀ i < n, f (g i) = slice s (a + w * i) (a + w * i + w)) :
    (List.ofFn fun i : Fin n => g i.val).flatMap f = slice s a (a + w * n) := by
  induction n with
  | zero => simp [slice]
  | succ n ih =>
    have hinit := ih fun i hi => h i (Nat.lt_succ_of_lt hi)
    rw [List.ofFn_succ_last, List.flatMap_append]
    simp only [Fin.val_castSucc, Fin.val_last, List.flatMap_cons, List.flatMap_nil, List.append_nil]
    rw [hinit, h n (Nat.lt_succ_self n), slice_append_slice s (by omega) (by omega), Nat.mul_succ,
      Nat.add_assoc]

theorem toList_sensorBytes {s : List U8} {a : Nat} (h : a + 32 ≤ s.length) :
    (sensorBytes s a).toList = slice s a (a + 32) := by
  have hbytes := flatMap_ofFn_eq_slice (f := fun b => [b]) (g := fun i => byteAt s (a + i)) (s := s)
    (a := a) (w := 1) 32 fun i hi => by rw [Nat.one_mul, singleton_byteAt (by omega)]
  rw [List.flatMap_singleton'] at hbytes
  rw [sensorBytes, Vector.toList_ofFn, hbytes]

theorem flatMap_sensorHalves {s : List U8} {a : Nat} (h : a + 64 ≤ s.length) :
    (sensorHalves s a).toList.flatMap le16 = slice s a (a + 64) := by
  rw [sensorHalves, Vector.toList_ofFn]
  exact flatMap_ofFn_eq_slice 32 fun i hi => le16_u16At (by omega)

theorem flatMap_sensorWords {s : List U8} {a : Nat} (h : a + 128 ≤ s.length) :
    (sensorWords s a).toList.flatMap le32 = slice s a (a + 128) := by
  rw [sensorWords, Vector.toList_ofFn]
  exact flatMap_ofFn_eq_slice 32 fun i hi => le32_u32At (by omega)

/-- R75: the fields of a Status record, written out again, are all of its payload but the padding. -/
theorem statusFieldBytes_statusFields {s : List U8} (h : Config.statusFieldsLen ≤ s.length) :
    statusFieldBytes (statusFields s) = s.take Config.statusFieldsLen := by
  have hlen : 142 ≤ s.length := h
  have hhead : [byteAt s 0, byteAt s 1] = slice s 0 2 := by
    rw [← slice_append_slice s (show 0 ≤ 1 by decide) (show 1 ≤ 2 by decide),
      ← singleton_byteAt (by omega), ← singleton_byteAt (by omega)]
    rfl
  simp only [statusFieldBytes, statusFields]
  rw [hhead, le32_u32At (by omega), le32_u32At (by omega), flatMap_sensorHalves (by omega),
    toList_sensorBytes (by omega), toList_sensorBytes (by omega), le16_u16At (by omega),
    le16_u16At (by omega)]
  simp only [Nat.reduceAdd]
  rw [slice_append_slice, slice_append_slice, slice_append_slice, slice_append_slice,
    slice_append_slice, slice_append_slice, slice_append_slice, slice_zero_eq_take] <;> decide

theorem statusBytes_take (r : StatusRecord) :
    (statusBytes r).take Config.statusFieldsLen = statusFieldBytes r := by
  rw [statusBytes_eq_append, List.take_left' (statusFieldBytes_length r)]

/-- The operand bytes of LAYOUT_SET (R83 format `OL`), written out again. -/
theorem layoutOperands_write {f : List U8} (h : f.length = 36) :
    le32 (u32At f 0) ++ (sensorBytes f 4).toList = f := by
  rw [le32_u32At (by omega), toList_sensorBytes (by omega), slice_append_slice f (by decide) (by decide),
    slice_zero_eq_take, List.take_of_length_le (by omega)]

/-- The operand bytes of DATA_PACK (R83 format `OD`), written out again. -/
theorem dataOperands_write {f : List U8} (h : f.length = 132) :
    le32 (u32At f 0) ++ (sensorWords f 4).toList.flatMap le32 = f := by
  rw [le32_u32At (by omega), flatMap_sensorWords (by omega), slice_append_slice f (by decide) (by decide),
    slice_zero_eq_take, List.take_of_length_le (by omega)]

end Sys2Proof.Machine

namespace Sys2Proof

open Machine

/-! ### Encoding undoes decoding -/

/-- R83: operands read from the bytes after an opcode are those bytes, up to the rest. -/
theorem eq_encodeOperands_of_decodeOperands {o : Opcode} {more rest : List U8} {i : Instr}
    (h : decodeOperands o more = some (i, rest)) :
    i.wellFormed = true ∧ i.opcode = o ∧ more = encodeOperands i ++ rest := by
  cases o with
  | crcInit | rxTick =>
    cases h
    exact ⟨rfl, rfl, rfl⟩
  | crcUpdate | rxByte | regRead =>
    cases more with
    | nil => cases h
    | cons b more =>
      cases h
      exact ⟨rfl, rfl, rfl⟩
  | txFrame =>
    cases more with
    | nil => cases h
    | cons kind more =>
      obtain ⟨⟨s, rest'⟩, hs, heq⟩ := Option.map_eq_some_iff.mp h
      cases heq
      obtain ⟨hlen, rfl⟩ := splitCounted_eq_some hs
      exact ⟨decide_eq_true hlen, rfl, rfl⟩
  | statusUnpack | layoutLoad | dataUnpack =>
    obtain ⟨⟨s, rest'⟩, hs, heq⟩ := Option.map_eq_some_iff.mp h
    cases heq
    obtain ⟨hlen, hmore⟩ := splitCounted_eq_some hs
    exact ⟨decide_eq_true hlen, rfl, hmore⟩
  | statusPack =>
    obtain ⟨⟨f, rest'⟩, hf, heq⟩ := Option.map_eq_some_iff.mp h
    cases heq
    obtain ⟨hlen, hmore⟩ := splitBytes_eq_some hf
    refine ⟨rfl, rfl, ?_⟩
    rw [encodeOperands, statusBytes_take, statusFieldBytes_statusFields hlen.ge,
      List.take_of_length_le hlen.le, hmore]
  | layoutSet =>
    obtain ⟨⟨f, rest'⟩, hf, heq⟩ := Option.map_eq_some_iff.mp h
    cases heq
    obtain ⟨hlen, hmore⟩ := splitBytes_eq_some hf
    exact ⟨rfl, rfl, by rw [encodeOperands, layoutOperands_write hlen, hmore]⟩
  | dataPack =>
    obtain ⟨⟨f, rest'⟩, hf, heq⟩ := Option.map_eq_some_iff.mp h
    cases heq
    obtain ⟨hlen, hmore⟩ := splitBytes_eq_some hf
    exact ⟨rfl, rfl, by rw [encodeOperands, dataOperands_write hlen, hmore]⟩

/-- What the decoder takes for a request starts with a defined opcode and its operands. -/
theorem exists_opcode_of_decode_request {bs rest : List U8} {i : Instr} (h : decode bs = .request i rest) :
    ∃ (o : Opcode) (more : List U8), bs = o.code :: more ∧ decodeOperands o more = some (i, rest) := by
  cases bs with
  | nil => cases h
  | cons op more =>
    cases hop : Opcode.ofByte op with
    | none => simp [decode, hop] at h
    | some o =>
      obtain rfl := Opcode.code_of_ofByte hop
      refine ⟨o, more, rfl, ?_⟩
      rw [decode_code] at h
      cases hoperands : decodeOperands o more with
      | none => simp [hoperands] at h
      | some read =>
        simp only [hoperands, Decoded.request.injEq] at h
        obtain ⟨rfl, rfl⟩ := h
        rfl

/-- R82 to R84: bytes taken for a request are the byte form of that request and the rest. -/
theorem eq_encode_append_of_decode {bs rest : List U8} {i : Instr} (h : decode bs = .request i rest) :
    i.wellFormed = true ∧ bs = encode i ++ rest := by
  obtain ⟨o, more, rfl, hoperands⟩ := exists_opcode_of_decode_request h
  obtain ⟨hwf, rfl, rfl⟩ := eq_encodeOperands_of_decodeOperands hoperands
  exact ⟨hwf, rfl⟩

/-- Settles O1: the operands of each format read back, whatever follows them. -/
theorem decodeOfEncodeIsTheRequest : Obligations.DecodeOfEncodeIsTheRequest :=
  decode_encode_append

/-- Settles O2: every field is written out again as the bytes it was read from. -/
theorem decodedBytesAreTheEncoding : Obligations.DecodedBytesAreTheEncoding := fun _ _ _ =>
  eq_encode_append_of_decode

/-! ### Where a request ends -/

/-- R82, R83: the byte form of a well-formed instruction has the length its first bytes tell. -/
theorem requestSize_encode {i : Instr} (h : i.wellFormed = true) :
    requestSize (encode i) = (encode i).length := by
  have hshape : Laws.EncodingShape.Statement i := by
    cases i with
    | crcInit => exact Laws.EncodingShape.crcInit
    | crcUpdate b => exact Laws.EncodingShape.crcUpdate b
    | txFrame kind s => exact Laws.EncodingShape.txFrame kind s
    | statusPack f => exact Laws.EncodingShape.statusPack f
    | statusUnpack s => exact Laws.EncodingShape.statusUnpack s
    | layoutSet map bits => exact Laws.EncodingShape.layoutSet map bits
    | layoutLoad s => exact Laws.EncodingShape.layoutLoad s
    | dataPack ts v => exact Laws.EncodingShape.dataPack ts v
    | dataUnpack s => exact Laws.EncodingShape.dataUnpack s
    | rxByte b => exact Laws.EncodingShape.rxByte b
    | rxTick => exact Laws.EncodingShape.rxTick
    | regRead r => exact Laws.EncodingShape.regRead r
  obtain ⟨_, hsize⟩ := hshape h
  exact hsize

theorem byteAt_append_of_lt {s : List U8} {k : Nat} (h : k < s.length) (t : List U8) :
    byteAt (s ++ t) k = byteAt s k :=
  List.getD_append _ _ _ _ h

/-- R82: once the bytes of a request are there, no later byte changes its length. -/
theorem requestSize_append {bs : List U8} (hpos : bs ≠ []) (h : requestSize bs ≤ bs.length)
    (more : List U8) : requestSize (bs ++ more) = requestSize bs := by
  have hop : byteAt (bs ++ more) 0 = byteAt bs 0 :=
    byteAt_append_of_lt (List.length_pos_iff.mpr hpos) more
  unfold requestSize at h ⊢
  rw [hop]
  cases hsel : Opcode.ofByte (byteAt bs 0) with
  | none => rfl
  | some o =>
    cases hfmt : o.format with
    | o | ob | of | ol | od => simp only [hfmt]
    | oks =>
      simp only [hsel, hfmt] at h ⊢
      rw [byteAt_append_of_lt (by omega), byteAt_append_of_lt (by omega)]
    | os =>
      simp only [hsel, hfmt] at h ⊢
      rw [byteAt_append_of_lt (by omega), byteAt_append_of_lt (by omega)]

theorem requestSize_encode_append {i : Instr} (h : i.wellFormed = true) (rest : List U8) :
    requestSize (encode i ++ rest) = (encode i).length := by
  have hsize := requestSize_encode h
  have hpos : encode i ≠ [] := List.cons_ne_nil _ _
  rw [requestSize_append hpos hsize.le, hsize]

/-- The decoder takes a byte for a reserved opcode exactly when it selects no operation. -/
theorem decode_eq_reserved_iff {bs rest : List U8} {op : U8} :
    decode bs = .reserved op rest ↔ Opcode.ofByte op = none ∧ bs = op :: rest := by
  cases bs with
  | nil => simp
  | cons b more =>
    cases hop : Opcode.ofByte b with
    | none =>
      simp only [decode, hop, Decoded.reserved.injEq, List.cons.injEq]
      constructor
      · rintro ⟨rfl, rfl⟩
        exact ⟨hop, rfl, rfl⟩
      · exact fun h => h.2
    | some o =>
      have hdefined : ¬ (Opcode.ofByte op = none ∧ b :: more = op :: rest) := by
        rintro ⟨hnone, heq⟩
        cases heq
        simp [hop] at hnone
      obtain rfl := Opcode.code_of_ofByte hop
      rw [decode_code]
      cases decodeOperands o more <;> simpa using hdefined

/-- Settles O3: the encoding is as long as its first bytes tell, and the bytes behind it are left. -/
theorem requestIsCompleteAtItsLastByte : Obligations.RequestIsCompleteAtItsLastByte := by
  intro bs
  refine ⟨decode_eq_incomplete_iff bs, fun i rest h => ?request, fun op rest h => ?reserved⟩
  case request =>
    obtain ⟨hwf, rfl⟩ := eq_encode_append_of_decode h
    rw [requestSize_encode_append hwf, List.drop_left]
  case reserved =>
    obtain ⟨hnone, rfl⟩ := decode_eq_reserved_iff.mp h
    exact ⟨requestSize_of_reserved hnone rest, rfl⟩

/-! ### The reserved opcodes -/

theorem Opcode.ofByte_eq_none_iff (b : U8) : Opcode.ofByte b = none ↔ ∀ o : Opcode, b ≠ o.code := by
  constructor
  · rintro h o rfl
    simp at h
  · intro h
    cases hop : Opcode.ofByte b with
    | none => rfl
    | some o => exact absurd (Opcode.code_of_ofByte hop).symm (h o)

/-- R87: the bytes left over by the opcodes of R84 are the ranges it lists. -/
theorem reservedOpcode_iff (op : U8) : ReservedOpcode op ↔ ∀ o : Opcode, op ≠ o.code := by
  have hlt := op.isLt
  constructor
  · rintro h o rfl
    revert h
    cases o <;> decide
  · intro h
    have hne (o : Opcode) : op.toNat ≠ o.code.toNat := fun heq => h o (BitVec.eq_of_toNat_eq heq)
    have hne01 : op.toNat ≠ 0x01 := hne .crcInit
    have hne02 : op.toNat ≠ 0x02 := hne .crcUpdate
    have hne10 : op.toNat ≠ 0x10 := hne .txFrame
    have hne20 : op.toNat ≠ 0x20 := hne .statusPack
    have hne21 : op.toNat ≠ 0x21 := hne .statusUnpack
    have hne30 : op.toNat ≠ 0x30 := hne .layoutSet
    have hne31 : op.toNat ≠ 0x31 := hne .layoutLoad
    have hne32 : op.toNat ≠ 0x32 := hne .dataPack
    have hne33 : op.toNat ≠ 0x33 := hne .dataUnpack
    have hne40 : op.toNat ≠ 0x40 := hne .rxByte
    have hne41 : op.toNat ≠ 0x41 := hne .rxTick
    have hne50 : op.toNat ≠ 0x50 := hne .regRead
    omega

/-- Settles O5: both sides say that the byte is the opcode of no operation. -/
theorem reservedOpcodesAreOneByteRequests : Obligations.ReservedOpcodesAreOneByteRequests := by
  intro op rest
  rw [decode_eq_reserved_iff, reservedOpcode_iff, Opcode.ofByte_eq_none_iff]
  exact and_iff_left rfl

/-- Settles O4: each byte sequence is the byte form of its operation, with nothing behind it. -/
theorem writtenOutRequestsDecode : Obligations.WrittenOutRequestsDecode :=
  ⟨decode_encode_append .crcInit [] rfl,
    decode_encode_append (.crcUpdate 0x41) [] rfl,
    decode_encode_append (.txFrame 0x04 [0x03, 0x05, 0x00]) [] rfl,
    decode_encode_append (.statusUnpack [0xAA, 0xBB]) [] rfl,
    decode_encode_append (.layoutLoad [0x07]) [] rfl,
    decode_encode_append (.dataUnpack [0x01, 0x00, 0x00, 0x00]) [] rfl,
    decode_encode_append (.rxByte 0xA5) [] rfl,
    decode_encode_append .rxTick [] rfl,
    decode_encode_append (.regRead 0x0D) [] rfl⟩

/-! ### The response of an operation -/

namespace Machine

/-- R252: an error code is never the status byte of `ok`. -/
theorem ErrCode.code_ne_zero (e : ErrCode) : e.code ≠ 0x00 := by
  cases e <;> decide

end Machine

/-- Settles O13: an operation ends in one response, which is `ok` or `err`. -/
theorem everyOperationAnswersOnce : Obligations.EveryOperationAnswersOnce := by
  intro i s
  obtain ⟨t, r, hexec, hresp, _⟩ := exec_answers i s
  refine ⟨t.respond r, r, hexec, by rw [State.respond_responses, hresp], ?_⟩
  cases r with
  | ok x => exact .inl ⟨x, rfl, rfl⟩
  | err e => exact .inr ⟨e, rfl, rfl, e.code_ne_zero⟩

/-! ### The bytes of a result -/

namespace Machine

theorem le16_eq (v : U16) : le16 v = [v.setWidth 8, (v >>> 8).setWidth 8] := by
  simp only [le16, leBytes_succ, leBytes_zero, List.cons.injEq, and_true]
  constructor <;> apply BitVec.eq_of_toNat_eq <;> simp [Nat.shiftRight_eq_div_pow]

theorem le32_eq (v : U32) :
    le32 v = [v.setWidth 8, (v >>> 8).setWidth 8, (v >>> 16).setWidth 8, (v >>> 24).setWidth 8] := by
  simp only [le32, leBytes_succ, leBytes_zero, List.cons.injEq, and_true]
  refine ⟨?_, ?_, ?_, ?_⟩ <;> apply BitVec.eq_of_toNat_eq <;>
    simp [Nat.shiftRight_eq_div_pow, Nat.div_div_eq_div_mul]

/-- R86: the flags byte holds the two flags of the frame in its bits 0 and 1, and no other bit. -/
theorem frameFlags_bits (f : Frame) :
    (frameFlags f).getLsbD 0 = f.crcValid ∧ (frameFlags f).getLsbD 1 = f.kindKnown ∧
      frameFlags f >>> 2 = 0 := by
  unfold frameFlags
  cases f.crcValid <;> cases f.kindKnown <;> decide

end Machine

/-- Settles O14: a count in front of a byte sequence is its little-endian length, and the Status record
of a payload is written out as that payload without its padding. -/
theorem resultBytes : Obligations.ResultBytes := by
  refine ⟨le16_eq, fun f hf => ?frame, fun _ => rfl, fun s hs => ?status, rfl, fun p hp => ?data,
    fun ts map v => ?samples, rfl, fun f => ?rx, rfl, rfl, le32_eq⟩
  case frame => exact ⟨_, rfl, leBytes_length _ _, fromLe_leBytes hf⟩
  case status =>
    rw [Result.bytes, statusBytes_take]
    exact statusFieldBytes_statusFields (by rw [hs]; decide)
  case data => exact ⟨_, rfl, leBytes_length _ _, fromLe_leBytes hp⟩
  case samples => rw [Result.bytes, List.flatMap_def]
  case rx => exact ⟨frameFlags f, rfl, frameFlags_bits f⟩

end Sys2Proof
end

section
/-! PROOF. The CRC (spec/40_crc.md). The bit-serial algorithm is linear over GF(2) (`crcStep_xor`), from
which follow its table form (R105) and its affine law (R108). The polynomial's constant term makes a shift
reversible, so no byte of a sequence can change without changing the CRC; and the streaming generator
runs the algorithm byte by byte (R103, R104, R107). -/

namespace Sys2Proof.Machine

/-! ### The table form (R105) -/

theorem crcShift_of_bit15_clear {c : U16} (h : c.getLsbD 15 = false) : crcShift c = c <<< 1 := by
  rw [crcShift, h, if_neg Bool.false_ne_true]

/-- While bit 15 stays clear the polynomial does not enter. -/
theorem crcShifts_of_top_clear (n : Nat) {c : U16} (h : ∀ i, 16 - n ≤ i → c.getLsbD i = false) :
    crcShifts n c = c <<< n := by
  induction n generalizing c with
  | zero => exact (BitVec.shiftLeft_zero c).symm
  | succ n ih =>
    have hshift : ∀ i, 16 - n ≤ i → (c <<< 1).getLsbD i = false := by
      intro i hi
      have hbit : c.getLsbD (i - 1) = false := h _ (by omega)
      simp [hbit]
    calc crcShifts (n + 1) c
        = crcShifts n (c <<< 1) := by rw [crcShifts, crcShift_of_bit15_clear (h 15 (by omega))]
      _ = c <<< 1 <<< n := ih hshift
      _ = c <<< (n + 1) := by rw [Nat.add_comm, BitVec.shiftLeft_add]

/-- The low byte of a register, with the high byte clear. -/
def lowByte (c : U16) : U16 := (c.setWidth 8).setWidth 16

/-- The byte that R101 shifts out of a register. -/
def highByte (c : U16) : U8 := (c >>> 8).setWidth 8

/-- A byte at bits 15..8, where R101 lets it enter. -/
def atHighByte (b : U8) : U16 := (b.setWidth 16) <<< 8

theorem getLsbD_lowByte (c : U16) (i : Nat) :
    (lowByte c).getLsbD i = (decide (i < 8) && c.getLsbD i) := by
  by_cases h : i < 8
  · have h16 : i < 16 := by omega
    simp [lowByte, h, h16]
  · simp [lowByte, h]

theorem getLsbD_highByte (c : U16) (i : Nat) :
    (highByte c).getLsbD i = (decide (i < 8) && c.getLsbD (8 + i)) := by
  simp [highByte]

theorem getLsbD_atHighByte (b : U8) {i : Nat} (h : i < 16) :
    (atHighByte b).getLsbD i = (!decide (i < 8) && b.getLsbD (i - 8)) := by
  simp [atHighByte, h]

theorem highByte_atHighByte (b : U8) : highByte (atHighByte b) = b := by
  refine BitVec.eq_of_getLsbD_eq fun i hi => ?_
  rw [getLsbD_highByte, getLsbD_atHighByte b (by omega)]
  simp [hi]

theorem lowByte_xor_atHighByte (c : U16) : lowByte c ^^^ atHighByte (highByte c) = c := by
  refine BitVec.eq_of_getLsbD_eq fun i hi => ?_
  rw [BitVec.getLsbD_xor, getLsbD_lowByte, getLsbD_atHighByte _ hi, getLsbD_highByte]
  by_cases h : i < 8
  · simp [h]
  · have hlt : i - 8 < 8 := by omega
    have hback : 8 + (i - 8) = i := by omega
    simp [h, hlt, hback]

theorem lowByte_shiftLeft (c : U16) : lowByte c <<< 8 = c <<< 8 := by
  refine BitVec.eq_of_getLsbD_eq fun i hi => ?_
  have hlt : i - 8 < 8 := by omega
  simp [getLsbD_lowByte, hlt]

theorem atHighByte_xor (a b : U8) : atHighByte (a ^^^ b) = atHighByte a ^^^ atHighByte b := by
  rw [atHighByte, BitVec.setWidth_xor, BitVec.shiftLeft_xor_distrib]
  rfl

theorem crcStep_eq (c : U16) (b : U8) : crcStep c b = crcShifts 8 (c ^^^ atHighByte b) := rfl

theorem crcTable_eq (i : U8) : crcTable i = crcShifts 8 (atHighByte i) := by
  rw [crcTable, crcStep_eq]
  exact congrArg _ BitVec.zero_xor

/-- The low byte of the register only moves up; the high byte joins the one that enters, and they select
the table entry. -/
theorem crcStepByTable_eq_crcStep (c : U16) (b : U8) : crcStepByTable c b = crcStep c b := by
  have htop : ∀ i, 16 - 8 ≤ i → (lowByte c).getLsbD i = false := by
    intro i hi
    simp [getLsbD_lowByte, Nat.not_lt.mpr hi]
  have hlow : crcShifts 8 (lowByte c) = c <<< 8 := by
    rw [crcShifts_of_top_clear 8 htop, lowByte_shiftLeft]
  calc crcStepByTable c b
      = c <<< 8 ^^^ crcTable (highByte c ^^^ b) := rfl
    _ = crcShifts 8 (lowByte c) ^^^ crcShifts 8 (atHighByte (highByte c) ^^^ atHighByte b) := by
        rw [hlow, crcTable_eq, atHighByte_xor]
    _ = crcShifts 8 (lowByte c ^^^ atHighByte (highByte c) ^^^ atHighByte b) := by
        rw [← crcShifts_xor, BitVec.xor_assoc]
    _ = crcStep c b := by rw [lowByte_xor_atHighByte, crcStep_eq]

/-! ### The CRC of sequences (R108) -/

theorem crcFrom_xor (c d : U16) {a e : List U8} (h : a.length = e.length) :
    crcFrom (c ^^^ d) (List.zipWith (· ^^^ ·) a e) = crcFrom c a ^^^ crcFrom d e := by
  induction a generalizing c d e with
  | nil =>
    obtain rfl := List.length_eq_zero_iff.mp h.symm
    rfl
  | cons x a ih =>
    obtain ⟨y, e, rfl⟩ := List.exists_cons_of_length_eq_add_one h.symm
    rw [List.zipWith_cons_cons, crcFrom_cons, crcFrom_cons, crcFrom_cons, crcStep_xor]
    exact ih _ _ (Nat.succ.inj h)

/-- The polynomial enters with its constant term in the bit that the shift has cleared, so a shift loses
no bit. -/
theorem crcShift_eq_zero {c : U16} (h : crcShift c = 0#16) : c = 0#16 := by
  cases htop : c.getLsbD 15 with
  | true =>
    have hlow : (crcShift c).getLsbD 0 = true := by simp [crcShift, htop, Config.crcPolynomial]
    simp [h] at hlow
  | false =>
    refine BitVec.eq_of_getLsbD_eq fun i hi => ?_
    by_cases hi15 : i = 15
    · rw [hi15, htop, BitVec.getLsbD_zero]
    · have hup : (c <<< 1).getLsbD (i + 1) = c.getLsbD i := by
        have hlt : i + 1 < 16 := by omega
        rw [BitVec.getLsbD_shiftLeft]
        simp [hlt]
      rw [← hup, ← crcShift_of_bit15_clear htop, h, BitVec.getLsbD_zero, BitVec.getLsbD_zero]

theorem crcShift_injective : Function.Injective crcShift := by
  intro c d h
  have hdiff : crcShift (c ^^^ d) = 0#16 := by rw [crcShift_xor, h, BitVec.xor_self]
  exact BitVec.xor_eq_zero_iff.mp (crcShift_eq_zero hdiff)

theorem crcShifts_injective (n : Nat) : Function.Injective (crcShifts n) := by
  induction n with
  | zero => exact Function.injective_id
  | succ n ih => exact ih.comp crcShift_injective

theorem crcStep_injective_left (b : U8) : Function.Injective (crcStep · b) := by
  intro c d h
  exact (BitVec.xor_left_inj _).mp (crcShifts_injective 8 h)

theorem crcStep_injective_right (c : U16) : Function.Injective (crcStep c) := by
  intro a b h
  have henter : atHighByte a = atHighByte b :=
    (BitVec.xor_right_inj _).mp (crcShifts_injective 8 h)
  rw [← highByte_atHighByte a, henter, highByte_atHighByte]

theorem crcFrom_injective (s : List U8) : Function.Injective (crcFrom · s) := by
  induction s with
  | nil => exact Function.injective_id
  | cons b s ih => exact ih.comp (crcStep_injective_left b)

/-- Of two sequences that differ in one byte, wherever it stands, the CRCs differ. -/
theorem crc16_byte_ne {a b : U8} (h : a ≠ b) (before after : List U8) :
    crc16 (before ++ a :: after) ≠ crc16 (before ++ b :: after) := by
  intro heq
  simp only [crc16, crcFrom_append, crcFrom_cons] at heq
  exact h (crcStep_injective_right _ (crcFrom_injective after heq))

theorem flipBit_eq_append {s : List U8} {j : Nat} (k : Nat) (h : j < s.length) :
    flipBit s j k = s.take j ++ (s[j] ^^^ BitVec.ofNat 8 (2 ^ k)) :: s.drop (j + 1) := by
  rw [flipBit, List.set_eq_take_append_cons_drop, if_pos h, byteAt, List.getD_eq_getElem _ _ h]

theorem bit_ne_zero {k : Nat} (h : k < 8) : BitVec.ofNat 8 (2 ^ k) ≠ 0#8 := by
  revert k
  decide

theorem xor_bit_ne {k : Nat} (h : k < 8) (b : U8) : b ^^^ BitVec.ofNat 8 (2 ^ k) ≠ b := by
  intro heq
  have hcancel : b ^^^ BitVec.ofNat 8 (2 ^ k) = b ^^^ 0#8 := by rw [heq, BitVec.xor_zero]
  exact bit_ne_zero h ((BitVec.xor_right_inj b).mp hcancel)

/-! ### The streaming generator (R103, R104, R107) -/

theorem exec_crcInit (s : State) :
    exec .crcInit s = .next ({ s with crcAcc := 0xFFFF }.respond (.ok (.crc 0xFFFF))) := rfl

theorem exec_crcUpdate (b : U8) (s : State) :
    exec (.crcUpdate b) s =
      .next ({ s with crcAcc := crcStep s.crcAcc b }.respond (.ok (.crc (crcStep s.crcAcc b)))) := rfl

theorem execAll_cons {i : Instr} {s t : State} (h : exec i s = .next t) (is : List Instr) :
    execAll (i :: is) s = execAll is t := by
  simp only [execAll, h]

/-- The answers of a streaming CRC: the accumulator `c` it starts with, then the one after each byte. -/
def crcAnswers (c : U16) (bs : List U8) : List Response :=
  (bs.scanl crcStep c).map (.ok <| .crc ·)

theorem crcAnswers_cons (c : U16) (b : U8) (bs : List U8) :
    crcAnswers c (b :: bs) = .ok (.crc c) :: crcAnswers (crcStep c b) bs := by
  simp [crcAnswers, List.scanl_cons]

theorem crcAnswers_length (c : U16) (bs : List U8) : (crcAnswers c bs).length = bs.length + 1 := by
  simp [crcAnswers]

theorem crcAnswers_getLast? (c : U16) (bs : List U8) :
    (crcAnswers c bs).getLast? = some (.ok (.crc (crcFrom c bs))) := by
  rw [crcAnswers, List.getLast?_map, List.getLast?_scanl]
  rfl

/-- After the answer of the accumulator `c`, one CRC_UPDATE for each byte runs the algorithm on from it. -/
theorem execAll_crcUpdates (c : U16) (bs : List U8) (s : State) :
    execAll (bs.map .crcUpdate) ({ s with crcAcc := c }.respond (.ok (.crc c))) =
      .next { s with crcAcc := crcFrom c bs, responses := s.responses ++ crcAnswers c bs } := by
  induction bs generalizing c s with
  | nil => rfl
  | cons b bs ih =>
    rw [List.map_cons, execAll_cons (exec_crcUpdate b _), crcFrom_cons, crcAnswers_cons]
    have hrest := ih (crcStep c b) { s with responses := s.responses ++ [.ok (.crc c)] }
    rw [List.append_assoc] at hrest
    exact hrest

theorem execAll_crcBytes (bs : List U8) (s : State) :
    execAll (crcBytes bs) s =
      .next { s with crcAcc := crc16 bs, responses := s.responses ++ crcAnswers 0xFFFF bs } := by
  rw [crcBytes, execAll_cons (exec_crcInit s), execAll_crcUpdates]
  rfl

end Sys2Proof.Machine

namespace Sys2Proof

open Machine

/-- Settles O22: the bit-serial algorithm, by linearity, treats the two bytes of the register apart. -/
theorem tableDrivenCrcIsTheBitSerialCrc : Obligations.TableDrivenCrcIsTheBitSerialCrc :=
  crcStepByTable_eq_crcStep

/-- Settles O23: the responses are those of `crcAnswers`, the last of which is the CRC. -/
theorem crcBytesComputeTheCrc : Obligations.CrcBytesComputeTheCrc := fun bs s =>
  ⟨crcAnswers 0xFFFF bs, execAll_crcBytes bs s, crcAnswers_length _ bs, crcAnswers_getLast? _ bs⟩

/-- Settles O24: linearity, with the initial value given to the one sequence and 0 to the other. -/
theorem crcIsAffine : Obligations.CrcIsAffine := by
  intro a e h
  calc crc16 (List.zipWith (· ^^^ ·) a e)
      = crcFrom (Config.crcInitial ^^^ 0#16) (List.zipWith (· ^^^ ·) a e) := by
        rw [BitVec.xor_zero, crc16]
    _ = crc16 a ^^^ crc0 e := crcFrom_xor _ _ h

/-- Settles O25: a flipped bit changes its byte, and no change of one byte leaves the CRC as it was. -/
theorem crcSeesEverySingleBitFlip : Obligations.CrcSeesEverySingleBitFlip := by
  intro s j k hj hk
  have hs : s.take j ++ s[j] :: s.drop (j + 1) = s := by
    rw [List.getElem_cons_drop, List.take_append_drop]
  have hne := crc16_byte_ne (xor_bit_ne hk s[j]) (s.take j) (s.drop (j + 1))
  rwa [← flipBit_eq_append k hj, hs] at hne

/-- Settles O20: the encoding is the opcode alone. -/
theorem crcInitResult : Obligations.CrcInitResult :=
  ⟨rfl, fun s => ⟨exec_crcInit s, by decide⟩⟩

/-- Settles O21; the values of R104 are evaluated. -/
theorem crcUpdateResult : Obligations.CrcUpdateResult := fun b s =>
  ⟨rfl, exec_crcUpdate b s, by decide, by decide, by decide, rfl⟩

end Sys2Proof
end

section
/-! PROOF. The frame encoder (spec/41_tx_framer.md). TX_FRAME has three outcomes, told apart by the payload
length and then the kind (R121, R255); the frame of the third is read back field by field (R123), each
field a middle part of the frame's bytes. -/

namespace Sys2Proof.Machine

/-! ### The three outcomes -/

/-- R73: the known kinds are 0x01 to 0x05. -/
theorem kindKnown_iff (kind : U8) : kindKnown kind = true ↔ 1 ≤ kind.toNat ∧ kind.toNat ≤ 5 := by
  simp [kindKnown]

theorem exec_txFrame_of_long {kind : U8} {s : List U8} (h : 65535 < s.length) (st : State) :
    exec (.txFrame kind s) st = raise .payloadTooLong st :=
  if_pos h

theorem exec_txFrame_of_unknown {kind : U8} {s : List U8} (hs : s.length ≤ 65535)
    (hk : ¬ (1 ≤ kind.toNat ∧ kind.toNat ≤ 5)) (st : State) :
    exec (.txFrame kind s) st = raise .badKind st := by
  have hunknown : (!kindKnown kind) = true := by
    rwa [Bool.not_eq_true', ← Bool.not_eq_true, kindKnown_iff]
  exact (if_neg (Nat.not_lt.mpr hs)).trans (if_pos hunknown)

theorem exec_txFrame_of_known {kind : U8} {s : List U8} (hs : s.length ≤ 65535)
    (hk : 1 ≤ kind.toNat ∧ kind.toNat ≤ 5) (st : State) :
    exec (.txFrame kind s) st =
      ret (.frameBytes (frameAround kind s)) { st with framesTx := st.framesTx + 1 } := by
  have hknown : ¬ (!kindKnown kind) = true := by simp [(kindKnown_iff kind).mpr hk]
  exact (if_neg (Nat.not_lt.mpr hs)).trans (if_neg hknown)

/-! ### The fields of the frame -/

/-- The slice between the ends of a part of a sequence is that part. -/
theorem slice_append_middle (s t u : List U8) {a b : Nat} (hs : s.length = a) (ht : a + t.length = b) :
    slice (s ++ t ++ u) a b = t := by
  rw [List.append_assoc, slice_append_right _ _ _ hs, ← ht, Nat.add_sub_cancel_left, List.take_left]

@[simp] theorem frameBody_length (kind : U8) (s : List U8) : (frameBody kind s).length = 4 + s.length := by
  rw [frameBody, List.length_append, List.length_append, leBytes_length]
  rfl

theorem frameAround_length (kind : U8) (s : List U8) : (frameAround kind s).length = 8 + s.length := by
  simp only [frameAround, List.length_append, frameBody_length, le16_length, List.length_cons,
    List.length_nil]
  omega

theorem frameAround_sof (kind : U8) (s : List U8) : slice (frameAround kind s) 0 2 = [0xA5, 0x5A] := rfl

theorem frameAround_version (kind : U8) (s : List U8) : byteAt (frameAround kind s) 2 = 0x01 := rfl

theorem frameAround_kind (kind : U8) (s : List U8) : byteAt (frameAround kind s) 3 = kind := rfl

theorem frameAround_length_field (kind : U8) (s : List U8) :
    slice (frameAround kind s) 4 6 = leBytes 2 s.length := rfl

theorem frameAround_payload (kind : U8) (s : List U8) :
    slice (frameAround kind s) 6 (6 + s.length) = s :=
  slice_append_middle ([0xA5, 0x5A, 0x01, kind] ++ leBytes 2 s.length) s
    (le16 (crc16 (frameBody kind s))) rfl rfl

/-- R72: the CRC covers what stands between the start marker and itself. -/
theorem frameAround_body (kind : U8) (s : List U8) :
    slice (frameAround kind s) 2 (6 + s.length) = frameBody kind s :=
  slice_append_middle [0xA5, 0x5A] _ _ rfl (by rw [frameBody_length]; omega)

theorem frameAround_crc (kind : U8) (s : List U8) :
    slice (frameAround kind s) (6 + s.length) (8 + s.length) = le16 (crc16 (frameBody kind s)) := by
  have hhead : ([0xA5, 0x5A] ++ frameBody kind s).length = 6 + s.length := by
    rw [List.length_append, frameBody_length]
    exact (Nat.add_assoc 2 4 _).symm
  rw [← List.append_nil (frameAround kind s)]
  exact slice_append_middle _ _ [] hhead (by rw [le16_length]; omega)

end Sys2Proof.Machine

namespace Sys2Proof

open Machine

/-- Settles O26: every field is a slice of `frameAround`, and the CRC's two bytes are of the body. -/
theorem txFrameBuildsTheFrame : Obligations.TxFrameBuildsTheFrame := by
  intro kind s st hs hlow hhigh
  have hlen : fromLe (leBytes 2 s.length) = s.length := fromLe_leBytes (Nat.lt_succ_of_le hs)
  refine ⟨frameAround kind s, exec_txFrame_of_known hs ⟨hlow, hhigh⟩ st, frameAround_length kind s,
    frameAround_sof kind s, frameAround_version kind s, frameAround_kind kind s, ?_,
    frameAround_payload kind s, ?_⟩
  · rw [frameAround_length_field, hlen]
  · rw [frameAround_crc, frameAround_body, fromLe_le16]

/-- Settles O27: the length is compared before the kind, and a refusal is a `raise` (R254). -/
theorem txFrameErrors : Obligations.TxFrameErrors := by
  intro kind s st
  refine ⟨fun hlong => ?tooLong, fun hs hk => ?badKind⟩
  case tooLong => rw [exec_txFrame_of_long hlong, raise_keeps]
  case badKind => rw [exec_txFrame_of_unknown hs (by omega), raise_keeps]

end Sys2Proof
end

section
/-! PROOF. The Status codec (spec/42_status.md). `statusFields` of a payload stands at the offsets of R75,
and it undoes `statusBytes`; so a packed record stands at those offsets too, and R142 follows from the
layout being read back and written out again. -/

namespace Sys2Proof.Machine

/-! ### The outcomes -/

theorem exec_statusPack (r : StatusRecord) (s : State) :
    exec (.statusPack r) s = ret (.statusPayload (statusBytes r)) s := rfl

theorem exec_statusUnpack_of_length {p : List U8} (h : p.length = 144) (s : State) :
    exec (.statusUnpack p) s = ret (.statusRecord (statusFields p)) s :=
  if_neg (not_not_intro h)

theorem exec_statusUnpack_of_length_ne {p : List U8} (h : p.length ≠ 144) (s : State) :
    exec (.statusUnpack p) s = raise .malformedLength s :=
  if_pos h

/-! ### The offsets of R75 -/

theorem u16At_toNat {s : List U8} {a : Nat} (h : a + 2 ≤ s.length) :
    (u16At s a).toNat = fromLe (slice s a (a + 2)) := by
  rw [← le16_u16At h, fromLe_le16]

theorem u32At_toNat {s : List U8} {a : Nat} (h : a + 4 ≤ s.length) :
    (u32At s a).toNat = fromLe (slice s a (a + 4)) := by
  rw [← le32_u32At h, fromLe_le32]

/-- R75: the record `r` stands in the payload `p`, each field at its offset. -/
structure StandsIn (r : StatusRecord) (p : List U8) : Prop where
  state : r.state = byteAt p 0
  nSensors : r.nSensors = byteAt p 1
  activeMap : r.activeMap.toNat = fromLe (slice p 2 6)
  healthMap : r.healthMap.toNat = fromLe (slice p 6 10)
  sampRateMap : ∀ i : Fin 32, r.sampRateMap[i].toNat = fromLe (slice p (10 + 2 * i.val) (12 + 2 * i.val))
  bitsPerSmpMap : ∀ i : Fin 32, r.bitsPerSmpMap[i] = byteAt p (74 + i.val)
  sensorRoleMap : ∀ i : Fin 32, r.sensorRoleMap[i] = byteAt p (106 + i.val)
  adcFlags : r.adcFlags.toNat = fromLe (slice p 138 140)
  reserved : r.reserved.toNat = fromLe (slice p 140 142)

theorem statusFields_standsIn {p : List U8} (h : 142 ≤ p.length) :
    StandsIn (statusFields p) p where
  state := rfl
  nSensors := rfl
  activeMap := u32At_toNat (by omega)
  healthMap := u32At_toNat (by omega)
  sampRateMap i := by
    have hread : (statusFields p).sampRateMap[i] = u16At p (10 + 2 * i.val) :=
      sensorHalves_getElem p 10 i.val i.isLt
    have hend : 12 + 2 * i.val = 10 + 2 * i.val + 2 := by omega
    rw [hread, hend, u16At_toNat (by omega)]
  bitsPerSmpMap i := sensorBytes_getElem p 74 i.val i.isLt
  sensorRoleMap i := sensorBytes_getElem p 106 i.val i.isLt
  adcFlags := u16At_toNat (by omega)
  reserved := u16At_toNat (by omega)

/-! ### The codec's two directions (R142) -/

theorem statusFields_statusBytes (r : StatusRecord) : statusFields (statusBytes r) = r :=
  statusFields_statusFieldBytes_append r [0x00, 0x00]

theorem statusBytes_statusFields {p : List U8} (h : 142 ≤ p.length) :
    statusBytes (statusFields p) = p.take 142 ++ [0x00, 0x00] := by
  rw [statusBytes_eq_append, statusFieldBytes_statusFields h]

theorem statusBytes_standsIn (r : StatusRecord) : StandsIn r (statusBytes r) := by
  have h : StandsIn (statusFields (statusBytes r)) (statusBytes r) :=
    statusFields_standsIn (by rw [statusBytes_length]; decide)
  rwa [statusFields_statusBytes] at h

/-- R75: the padding of a packed record stands behind its fields. -/
theorem drop_statusBytes (r : StatusRecord) : (statusBytes r).drop 142 = [0x00, 0x00] := by
  rw [statusBytes_eq_append, List.drop_left' (statusFieldBytes_length r)]

theorem byteAt_add (s : List U8) (o i : Nat) : byteAt s (o + i) = byteAt (s.drop o) i := by
  simp [byteAt, List.getD_eq_getElem?_getD]

/-- R141: payloads that differ in the padding only hold the same record. -/
theorem statusFields_congr {p q : List U8} (hp : 142 ≤ p.length)
    (hq : 142 ≤ q.length)
    (h : q.take 142 = p.take 142) :
    statusFields q = statusFields p := by
  have hbytes : statusBytes (statusFields q) = statusBytes (statusFields p) := by
    rw [statusBytes_statusFields hq, statusBytes_statusFields hp, h]
  rw [← statusFields_statusBytes (statusFields q), hbytes, statusFields_statusBytes]

end Sys2Proof.Machine

namespace Sys2Proof

open Machine

/-- Settles O28: the packed record stands in its payload, in front of two bytes of padding. -/
theorem statusPackLaysOutTheRecord : Obligations.StatusPackLaysOutTheRecord := by
  intro r st
  have h := statusBytes_standsIn r
  have hpad (i : Nat) : byteAt (statusBytes r) (142 + i) = byteAt [0x00, 0x00] i := by
    rw [byteAt_add, drop_statusBytes]
  exact ⟨statusBytes r, exec_statusPack r st, rfl, statusBytes_length r, h.state.symm, h.nSensors.symm,
    h.activeMap.symm, h.healthMap.symm,
    fun i => ⟨(h.sampRateMap i).symm, (h.bitsPerSmpMap i).symm, (h.sensorRoleMap i).symm⟩,
    h.adcFlags.symm, h.reserved.symm, hpad 0, hpad 1⟩

/-- Settles O29: the record read is the one that stands in the payload, and a refusal is a `raise` (R254). -/
theorem statusUnpackReadsTheRecord : Obligations.StatusUnpackReadsTheRecord := by
  intro p st
  refine ⟨rfl, fun hp => ?record, fun hp => ?refused⟩
  case record =>
    have hlen : 142 ≤ p.length := by omega
    have h := statusFields_standsIn hlen
    refine ⟨statusFields p, exec_statusUnpack_of_length hp st, h.state, h.nSensors, h.activeMap, h.healthMap,
      fun i => ⟨h.sampRateMap i, h.bitsPerSmpMap i, h.sensorRoleMap i⟩, h.adcFlags, h.reserved,
      fun q hq hsame => ?_⟩
    rw [exec_statusUnpack_of_length hq, exec_statusUnpack_of_length hp,
      statusFields_congr hlen (by omega) hsame]
  case refused => rw [exec_statusUnpack_of_length_ne hp, raise_keeps]

/-- Settles O30: the fields read back from their layout, and written out again are the payload's first 142
bytes. -/
theorem statusRoundTrip : Obligations.StatusRoundTrip := by
  refine ⟨fun r s s' => ⟨statusBytes r, exec_statusPack r s, ?unpacked⟩,
    fun p s s' hp => ⟨statusFields p, exec_statusUnpack_of_length hp s, ?packed⟩⟩
  case unpacked =>
    rw [exec_statusUnpack_of_length (statusBytes_length r), statusFields_statusBytes, ret_adds]
  case packed =>
    rw [exec_statusPack, statusBytes_statusFields (by omega), ret_adds]

end Sys2Proof
end

section
/-! PROOF. The sample layout and the sample packer (spec/43_data_pack.md). The list of active sensors splits
at each of its members, and the fields of the part before it take the bytes `fieldOffset` counts; so
`packData` writes that member's field at its offset, `unpackData` reads it from there, and R191 joins the two. -/

namespace Sys2Proof.Machine

/-! ### The outcomes -/

theorem exec_layoutSet (map : U32) (bits : PerSensor U8) (s : State) :
    exec (.layoutSet map bits) s = ret .done (s.loadLayout map bits) := rfl

theorem exec_layoutLoad_of_length {p : List U8} (h : p.length = 144) (s : State) :
    exec (.layoutLoad p) s = ret .done (s.loadLayout (u32At p 2) (sensorBytes p 74)) :=
  if_neg (not_not_intro h)

theorem exec_layoutLoad_of_length_ne {p : List U8} (h : p.length ≠ 144) (s : State) :
    exec (.layoutLoad p) s = raise .malformedLength s :=
  if_pos h

theorem layoutError_of_invalid {s : State} (h : s.layoutValid = false) :
    layoutError s = some .missingContext := by
  simp [layoutError, h]

theorem layoutError_of_badWidths {s : State} (h : s.layoutValid = true)
    (hw : ¬ WidthsInRange s.layoutMap s.layoutBits) : layoutError s = some .badLayout := by
  have hbad : layoutOk s.layoutMap s.layoutBits = false := by
    rwa [← Bool.not_eq_true, layoutOk_iff]
  simp [layoutError, h, hbad]

theorem layoutError_of_widthsInRange {s : State} (h : s.layoutValid = true)
    (hw : WidthsInRange s.layoutMap s.layoutBits) : layoutError s = none := by
  simp [layoutError, h, (layoutOk_iff _ _).mpr hw]

theorem exec_dataPack_of_error {s : State} {e : ErrCode} (h : layoutError s = some e) (ts : U32)
    (v : PerSensor U32) : exec (.dataPack ts v) s = raise e s := by
  simp only [exec, execDataPack, h]

theorem exec_dataPack_of_noError {s : State} (h : layoutError s = none) (ts : U32) (v : PerSensor U32) :
    exec (.dataPack ts v) s = ret (.dataPayload (packData s.layoutMap s.layoutBits ts v)) s := by
  simp only [exec, execDataPack, h]

theorem exec_dataUnpack_of_error {s : State} {e : ErrCode} (h : layoutError s = some e) (p : List U8) :
    exec (.dataUnpack p) s = raise e s := by
  simp only [exec, execDataUnpack, h]

theorem exec_dataUnpack_of_length_ne {s : State} (h : layoutError s = none) {p : List U8}
    (hp : p.length ≠ dataLen s.layoutMap s.layoutBits) :
    exec (.dataUnpack p) s = raise .malformedLength s := by
  simp only [exec, execDataUnpack, h]
  exact if_pos hp

theorem exec_dataUnpack_of_length {s : State} (h : layoutError s = none) {p : List U8}
    (hp : p.length = dataLen s.layoutMap s.layoutBits) :
    exec (.dataUnpack p) s =
      ret (.samples (u32At p 0) s.layoutMap (unpackData s.layoutMap s.layoutBits p)) s := by
  simp only [exec, execDataUnpack, h]
  exact if_neg (not_not_intro hp)

/-! ### The active sensors below an index -/

/-- R161: the list of active sensors rises. -/
theorem activeSensors_pairwise (map : U32) :
    (activeSensors map).Pairwise (fun i j => i.val < j.val) :=
  (List.pairwise_lt_finRange 32).filter _

/-- The part of `activeSensors` below an index. -/
def activeBelow (map : U32) (n : Nat) : List (Fin 32) :=
  ((List.finRange 32).take n).filter fun i => map.getLsbD i.val

theorem activeBelow_all (map : U32) : activeBelow map 32 = activeSensors map := by
  rw [activeBelow, List.take_of_length_le (by simp), activeSensors]

theorem activeBelow_succ (map : U32) (i : Fin 32) :
    activeBelow map (i.val + 1) = activeBelow map i.val ++ if Active map i then [i] else [] := by
  have htake : (List.finRange 32).take (i.val + 1) = (List.finRange 32).take i.val ++ [i] := by
    rw [List.take_succ_eq_append_getElem (by simp), List.getElem_finRange]
    rfl
  rw [activeBelow, htake, List.filter_append, List.filter_singleton, cond_eq_ite, activeBelow]

/-- An active sensor splits the list; the sensors after it are others. -/
theorem activeSensors_split {map : U32} {i : Fin 32} (h : Active map i) :
    ∃ after, activeSensors map = activeBelow map i.val ++ i :: after ∧ i ∉ after := by
  have hprefix : activeBelow map (i.val + 1) <+: activeSensors map :=
    (List.take_prefix _ _).filter _
  obtain ⟨after, hafter⟩ := hprefix
  rw [activeBelow_succ, if_pos h, List.append_assoc, List.singleton_append] at hafter
  have hrising := activeSensors_pairwise map
  rw [← hafter, List.pairwise_append, List.pairwise_cons] at hrising
  obtain ⟨-, ⟨habove, -⟩, -⟩ := hrising
  exact ⟨after, hafter.symm, fun hmem => Nat.lt_irrefl _ (habove i hmem)⟩

/-! ### The offset of a field (R77, R181) -/

/-- The bytes the fields of these sensors take. -/
def fieldsLength (bits : PerSensor U8) (l : List (Fin 32)) : Nat :=
  (l.map fun i => fieldWidth bits[i]).sum

@[simp] theorem fieldsLength_nil (bits : PerSensor U8) : fieldsLength bits [] = 0 := rfl

@[simp] theorem fieldsLength_cons (bits : PerSensor U8) (i : Fin 32) (l : List (Fin 32)) :
    fieldsLength bits (i :: l) = fieldWidth bits[i] + fieldsLength bits l := rfl

@[simp] theorem fieldsLength_append (bits : PerSensor U8) (l m : List (Fin 32)) :
    fieldsLength bits (l ++ m) = fieldsLength bits l + fieldsLength bits m := by
  simp [fieldsLength]

theorem bytesBelow_succ (map : U32) (bits : PerSensor U8) (i : Fin 32) :
    bytesBelow map bits (i.val + 1) =
      bytesBelow map bits i.val + if Active map i then fieldWidth bits[i] else 0 := by
  have hbit : bits.toList.getD i.val 0 = bits[i] := by simp
  rw [bytesBelow, hbit, fieldWidth_eq]

theorem bytesBelow_eq (map : U32) (bits : PerSensor U8) {n : Nat} (h : n ≤ 32) :
    bytesBelow map bits n = fieldsLength bits (activeBelow map n) := by
  induction n with
  | zero => rfl
  | succ n ih =>
    have hbelow := bytesBelow_succ map bits ⟨n, h⟩
    have hactive := activeBelow_succ map ⟨n, h⟩
    rw [hbelow, hactive, fieldsLength_append, ih (Nat.le_of_succ_le h)]
    split <;> simp

theorem fieldOffset_eq (map : U32) (bits : PerSensor U8) (i : Fin 32) :
    fieldOffset map bits i.val = 4 + fieldsLength bits (activeBelow map i.val) := by
  rw [fieldOffset, bytesBelow_eq map bits i.isLt.le]

theorem dataLen_eq (map : U32) (bits : PerSensor U8) :
    dataLen map bits = fieldOffset map bits 32 := by
  rw [fieldOffset, bytesBelow_eq map bits le_rfl, activeBelow_all, dataLen, fieldsLength]

/-- R179: a legal width takes at most 4 bytes, and there are 32 sensors. -/
theorem dataLen_le {map : U32} {bits : PerSensor U8} (h : WidthsInRange map bits) :
    dataLen map bits ≤ 132 := by
  have hwidth : ∀ w ∈ (activeSensors map).map fun i => fieldWidth bits[i], w ≤ 4 := by
    simp only [List.mem_map, forall_exists_index, and_imp]
    rintro _ i hi rfl
    have hrange := h i ((mem_activeSensors map i).mp hi)
    rw [fieldWidth_eq]
    omega
  have hcount : (activeSensors map).length ≤ 32 :=
    (List.length_filter_le _ _).trans_eq List.length_finRange
  have hsum := List.sum_le_card_nsmul _ 4 hwidth
  rw [List.length_map, smul_eq_mul] at hsum
  rw [dataLen]
  omega

/-! ### Packing -/

theorem flatMap_sampleField_length (bits : PerSensor U8) (v : PerSensor U32) (l : List (Fin 32)) :
    (l.flatMap fun i => sampleField bits[i] v[i]).length = fieldsLength bits l := by
  simp [List.length_flatMap, fieldsLength]

theorem packData_length (map : U32) (bits : PerSensor U8) (ts : U32) (v : PerSensor U32) :
    (packData map bits ts v).length = dataLen map bits := by
  rw [packData, List.length_append, le32_length, flatMap_sampleField_length, dataLen, fieldsLength]

theorem u32At_packData (map : U32) (bits : PerSensor U8) (ts : U32) (v : PerSensor U32) :
    u32At (packData map bits ts v) 0 = ts :=
  u32At_of_drop_eq_append rfl

/-- R185: the field of an active sensor stands at the sensor's offset. -/
theorem slice_packData {map : U32} (bits : PerSensor U8) (ts : U32) (v : PerSensor U32) {i : Fin 32}
    (h : Active map i) :
    slice (packData map bits ts v) (fieldOffset map bits i.val)
        (fieldOffset map bits i.val + fieldWidth bits[i]) =
      sampleField bits[i] v[i] := by
  obtain ⟨after, hsplit, -⟩ := activeSensors_split h
  rw [packData, hsplit, List.flatMap_append, List.flatMap_cons, ← List.append_assoc, ← List.append_assoc]
  refine slice_append_middle _ _ _ ?start ?stop
  case start => rw [List.length_append, le32_length, flatMap_sampleField_length, fieldOffset_eq]
  case stop => rw [sampleField_length]

/-! ### Unpacking -/

theorem readSamples_append (bits : PerSensor U8) (p : List U8) (l m : List (Fin 32)) (o : Nat)
    (val : PerSensor U32) :
    readSamples bits p (l ++ m) o val =
      readSamples bits p m (o + fieldsLength bits l) (readSamples bits p l o val) := by
  induction l generalizing o val with
  | nil => rfl
  | cons i l ih =>
    rw [List.cons_append, readSamples, ih, fieldsLength_cons, Nat.add_assoc, readSamples]

/-- The loop of R190 writes the samples of its sensors only. -/
theorem readSamples_of_notMem (bits : PerSensor U8) (p : List U8) {l : List (Fin 32)} {i : Fin 32}
    (h : i ∉ l) (o : Nat) (val : PerSensor U32) : (readSamples bits p l o val)[i] = val[i] := by
  induction l generalizing o val with
  | nil => rfl
  | cons j l ih =>
    obtain ⟨hne, hrest⟩ := List.ne_and_not_mem_of_not_mem_cons h
    rw [readSamples, ih hrest]
    exact Vector.getElem_set_ne j.isLt i.isLt fun heq => hne (Fin.ext heq.symm)

/-- R190: the sample of an active sensor is read from the field at the sensor's offset. -/
theorem unpackData_of_active {map : U32} (bits : PerSensor U8) (p : List U8) {i : Fin 32}
    (h : Active map i) :
    (unpackData map bits p)[i] =
      fieldSample bits[i] (slice p (fieldOffset map bits i.val)
        (fieldOffset map bits i.val + fieldWidth bits[i])) := by
  obtain ⟨after, hsplit, hafter⟩ := activeSensors_split h
  rw [unpackData, hsplit, readSamples_append, ← fieldOffset_eq, readSamples,
    readSamples_of_notMem bits p hafter]
  exact Vector.getElem_set_self i.isLt

theorem unpackData_of_inactive {map : U32} (bits : PerSensor U8) (p : List U8) {i : Fin 32}
    (h : ¬ Active map i) : (unpackData map bits p)[i] = 0 := by
  have hnotMem : i ∉ activeSensors map := (mem_activeSensors map i).not.mpr h
  rw [unpackData, readSamples_of_notMem bits p hnotMem]
  exact Vector.getElem_replicate i.isLt

/-- R191: an active sensor's sample comes back cut to its width. -/
theorem unpackData_packData_toNat {map : U32} {bits : PerSensor U8} (hw : WidthsInRange map bits) (ts : U32)
    (v : PerSensor U32) {i : Fin 32} (h : Active map i) :
    (unpackData map bits (packData map bits ts v))[i].toNat = v[i].toNat % 2 ^ bits[i].toNat := by
  rw [unpackData_of_active bits _ h, slice_packData bits ts v h, fieldSample_toNat _ _ (hw i h).2,
    fromLe_sampleField, Nat.mod_mod]

end Sys2Proof.Machine

namespace Sys2Proof

open Machine

/-- Settles O37: each field is read from where it was written, and the layout checks of the second state are
those of the first. -/
theorem dataRoundTrip : Obligations.DataRoundTrip := by
  intro ts v s s' hvalid hw hsame
  have hnone := layoutError_of_widthsInRange hvalid hw
  have hnone' : layoutError s' = none := layoutError_congr hsame ▸ hnone
  obtain ⟨-, hmap, hbits⟩ := hsame
  have hlen := packData_length s.layoutMap s.layoutBits ts v
  refine ⟨packData s.layoutMap s.layoutBits ts v,
    unpackData s.layoutMap s.layoutBits (packData s.layoutMap s.layoutBits ts v),
    exec_dataPack_of_noError hnone ts v, ?unpacked, fun i hi => ?sample⟩
  case unpacked =>
    rw [hmap, hbits] at hlen ⊢
    rw [exec_dataUnpack_of_length hnone' hlen, u32At_packData, ret_adds]
  case sample =>
    have hcut := unpackData_packData_toNat hw ts v hi
    refine ⟨hcut.trans (and_maskBits _ _).symm, fun hfits => BitVec.eq_of_toNat_eq ?_⟩
    rw [hcut, Nat.mod_eq_of_lt hfits]

/-- Settles O35: the checks refuse in the order of R176, and the fields of `packData` stand at their
offsets. -/
theorem dataPackBuildsThePayload : Obligations.DataPackBuildsThePayload := by
  intro ts v s
  refine ⟨rfl, fun hvalid => ?missing, fun hvalid hw => ?bad, fun hvalid hw => ?packed⟩
  case missing => rw [exec_dataPack_of_error (layoutError_of_invalid hvalid), raise_keeps]
  case bad => rw [exec_dataPack_of_error (layoutError_of_badWidths hvalid hw), raise_keeps]
  case packed =>
    have hlen := packData_length s.layoutMap s.layoutBits ts v
    refine ⟨packData s.layoutMap s.layoutBits ts v,
      exec_dataPack_of_noError (layoutError_of_widthsInRange hvalid hw) ts v,
      hlen.trans (dataLen_eq _ _), hlen.trans_le (dataLen_le hw), fromLe_le32 ts, fun i hi => ?_⟩
    exact (congrArg fromLe (slice_packData s.layoutBits ts v hi)).trans (fromLe_sampleField _ _)

/-- Settles O36: the checks refuse in the order of R176, and `unpackData` reads each field at its offset. -/
theorem dataUnpackReadsTheFields : Obligations.DataUnpackReadsTheFields := by
  intro p s
  refine ⟨rfl, fun hvalid => ?missing, fun hvalid hw => ?bad, fun hvalid hw hp => ?malformed,
    fun hvalid hw hp => ?unpacked⟩
  case missing => rw [exec_dataUnpack_of_error (layoutError_of_invalid hvalid), raise_keeps]
  case bad => rw [exec_dataUnpack_of_error (layoutError_of_badWidths hvalid hw), raise_keeps]
  case malformed =>
    rw [← dataLen_eq] at hp
    rw [exec_dataUnpack_of_length_ne (layoutError_of_widthsInRange hvalid hw) hp, raise_keeps]
  case unpacked =>
    have hfour : 0 + 4 ≤ p.length := by
      rw [hp, fieldOffset]
      omega
    rw [← dataLen_eq] at hp
    refine ⟨u32At p 0, unpackData s.layoutMap s.layoutBits p,
      exec_dataUnpack_of_length (layoutError_of_widthsInRange hvalid hw) hp, u32At_toNat hfour,
      fun i => ⟨unpackData_of_inactive s.layoutBits p, fun hi => ?_⟩⟩
    rw [unpackData_of_active s.layoutBits p hi, fieldSample_toNat _ _ (hw i hi).2]

/-- Settles O31: the load writes the three layout elements, and the answer is added behind it. -/
theorem layoutSetReplacesTheLayout : Obligations.LayoutSetReplacesTheLayout := fun map bits s =>
  ⟨rfl, (exec_layoutSet map bits s).trans (ret_adds .done (s.loadLayout map bits))⟩

/-- Settles O32: the layout loaded is the map and the widths at their Status offsets, and a refusal is a
`raise` (R254). -/
theorem layoutLoadTakesTheStatusLayout : Obligations.LayoutLoadTakesTheStatusLayout := by
  intro p s
  refine ⟨rfl, fun hp => ?loaded, fun hp => ?refused⟩
  case loaded =>
    have hload := exec_layoutLoad_of_length hp s
    exact ⟨u32At p 2, sensorBytes p 74, u32At_toNat (by omega),
      fun i => sensorBytes_getElem p 74 i.val i.isLt, hload, hload.trans (exec_layoutSet _ _ s).symm⟩
  case refused => rw [exec_layoutLoad_of_length_ne hp, raise_keeps]

/-- Settles O33: the list is a filter of the rising list of all sensors. -/
theorem activeSensorsAreTheSetBitsAscending : Obligations.ActiveSensorsAreTheSetBitsAscending :=
  fun map => ⟨mem_activeSensors map, activeSensors_pairwise map⟩

/-- Settles O34: a width rounded up to whole bytes. -/
theorem fieldWidthsOfR179 : Obligations.FieldWidthsOfR179 := by
  intro b
  rw [fieldWidth_eq]
  omega

end Sys2Proof
end

section
/-! PROOF. The parser fed a byte sequence (spec/44_rx_parser.md R213): what each byte emits, the same bytes as
RX_BYTE operations, and that nothing else the block does changes the frames emitted. -/

namespace Sys2Proof.Machine

/-! ### A byte sequence, byte by byte -/

/-- What each byte of a sequence emits, as `RX_BYTES` answers it (R213). -/
def emissions (p : Params) : List U8 → State → List (Option Frame)
  | [], _ => []
  | b :: bs, s => (rxByte p b s).2 :: emissions p bs (rxByte p b s).1

@[simp] theorem feed_nil (p : Params) (s : State) : feed p [] s = (s, []) := rfl

theorem feed_cons (p : Params) (b : U8) (bs : List U8) (s : State) :
    feed p (b :: bs) s = ((feed p bs (rxByte p b s).1).1,
      (rxByte p b s).2.toList ++ (feed p bs (rxByte p b s).1).2) := rfl

theorem feed_append (p : Params) (c1 c2 : List U8) (s : State) :
    feed p (c1 ++ c2) s = ((feed p c2 (feed p c1 s).1).1,
      (feed p c1 s).2 ++ (feed p c2 (feed p c1 s).1).2) := by
  induction c1 generalizing s with
  | nil => rfl
  | cons b c1 ih => simp only [List.cons_append, feed_cons, ih, List.append_assoc]

theorem feed_singleton (p : Params) (b : U8) (s : State) :
    feed p [b] s = ((rxByte p b s).1, (rxByte p b s).2.toList) := by
  rw [feed_cons, feed_nil, List.append_nil]

/-- The frames of a sequence are what its bytes emit. -/
theorem feed_frames (p : Params) (bs : List U8) (s : State) :
    (feed p bs s).2 = (emissions p bs s).reduceOption := by
  induction bs generalizing s with
  | nil => rfl
  | cons b bs ih =>
    rw [feed_cons, emissions, ih]
    cases (rxByte p b s).2 <;> rfl

theorem emissions_append (p : Params) (c1 c2 : List U8) (s : State) :
    emissions p (c1 ++ c2) s = emissions p c1 s ++ emissions p c2 (feed p c1 s).1 := by
  induction c1 generalizing s with
  | nil => rfl
  | cons b c1 ih => simp only [List.cons_append, emissions, feed_cons, ih]

/-! ### What a byte sequence writes -/

theorem rxByte_onlyRxChanges (p : Params) (b : U8) (s : State) : OnlyRxChanges s (rxByte p b s).1 := by
  rw [rxByte_frame]
  rfl

theorem OnlyRxChanges.trans {s t u : State} (hst : OnlyRxChanges s t) (htu : OnlyRxChanges t u) :
    OnlyRxChanges s u := by
  rw [htu, hst]
  rfl

theorem feed_onlyRxChanges (p : Params) (bs : List U8) (s : State) :
    OnlyRxChanges s (feed p bs s).1 := by
  induction bs generalizing s with
  | nil => rfl
  | cons b bs ih => exact (rxByte_onlyRxChanges p b s).trans (ih _)

/-- R210: the frames are counted, and among them those whose CRC differs. -/
theorem feed_counts (p : Params) (bs : List U8) (s : State) :
    (feed p bs s).1.framesRx = s.framesRx + BitVec.ofNat 32 (feed p bs s).2.length ∧
    (feed p bs s).1.crcErrors =
      s.crcErrors + BitVec.ofNat 32 ((feed p bs s).2.countP fun f => !f.crcValid) ∧
    (feed p bs s).1.stallAborts = s.stallAborts := by
  induction bs generalizing s with
  | nil => simp
  | cons b bs ih =>
    obtain ⟨hrx, hcrc, habort, -⟩ := rxByte_countsEvents p b s
    obtain ⟨ihrx, ihcrc, ihabort⟩ := ih (rxByte p b s).1
    rw [feed_cons, ihrx, ihcrc, ihabort, hrx, hcrc, habort]
    cases (rxByte p b s).2 with
    | none => simp [eventsOf]
    | some f =>
      cases hf : f.crcValid <;>
        simp [eventsOf, hf, BitVec.add_assoc, BitVec.ofNat_add, BitVec.add_comm 1#32]

/-! ### RX_BYTES -/

theorem execAll_append {is : List Instr} {s t : State} (h : execAll is s = .next t) (js : List Instr) :
    execAll (is ++ js) s = execAll js t := by
  induction is generalizing s with
  | nil =>
    cases h
    rfl
  | cons i is ih =>
    obtain ⟨u, hu, -⟩ := exec_touches i s
    rw [execAll_cons hu] at h
    rw [List.cons_append, execAll_cons hu, ih h]

theorem exec_rxByte (b : U8) (s : State) :
    exec (.rxByte b) s =
      .next ((rxByte Config.params b s).1.respond (.ok (.rx (rxByte Config.params b s).2))) :=
  execRxByte_eq b s

theorem withRxOf_of_onlyRxChanges {s t : State} (h : OnlyRxChanges s t) (rs : List Response) :
    State.withRxOf { s with responses := rs } t = { t with responses := rs } := by
  rw [h]
  rfl

theorem sameRx_refl (s : State) : SameRx s s :=
  ⟨rfl, rfl, rfl, rfl, rfl, rfl, rfl, rfl, rfl, rfl⟩

/-- A byte neither reads nor writes the responses. -/
theorem rxByte_with_responses (p : Params) (b : U8) (s : State) (rs : List Response) :
    rxByte p b { s with responses := rs } =
      ({ (rxByte p b s).1 with responses := rs }, (rxByte p b s).2) := by
  have hsame : SameRx s { s with responses := rs } := sameRx_refl s
  rw [rxByte_of_sameRx hsame, withRxOf_of_onlyRxChanges (rxByte_onlyRxChanges p b s)]

/-- R213: RX_BYTES is the parser fed the bytes, one answer for each. -/
theorem execAll_rxBytes (bs : List U8) (s : State) :
    execAll (rxBytes bs) s = .next { (feed Config.params bs s).1 with
      responses := s.responses ++ (emissions Config.params bs s).map (.ok <| .rx ·) } := by
  suffices h : ∀ rs, execAll (rxBytes bs) { s with responses := rs } =
      .next { (feed Config.params bs s).1 with
        responses := rs ++ (emissions Config.params bs s).map (.ok <| .rx ·) } from h s.responses
  induction bs generalizing s with
  | nil => simp [rxBytes, execAll, emissions]
  | cons b bs ih =>
    intro rs
    have hbyte : exec (.rxByte b) { s with responses := rs } = .next { (rxByte Config.params b s).1 with
        responses := rs ++ [.ok (.rx (rxByte Config.params b s).2)] } := by
      rw [exec_rxByte, rxByte_with_responses]
      rfl
    rw [feed_cons, emissions, List.map_cons, List.append_cons]
    exact (execAll_cons hbyte _).trans (ih _ _)

/-! ### The frames and the rest of the block (R213) -/

/-- The two states hold the same place in the stream: the stall count may differ, for a byte clears it. -/
def SameStream (s t : State) : Prop := SameRx { s with rxStallCnt := 0 } { t with rxStallCnt := 0 }

theorem sameStream_of_sameRx {s t : State} (h : SameRx s t) : SameStream s t := by
  rw [eq_withRxOf_of_sameRx h]
  exact sameRx_withRxOf _ _

theorem sameStream_respond (s : State) (r : Response) : SameStream s (s.respond r) :=
  sameRx_refl { s with rxStallCnt := 0 }

theorem rxByte_clears_stallCnt (p : Params) (b : U8) (s : State) :
    rxByte p b { s with rxStallCnt := 0 } = rxByte p b s := rfl

theorem rxByte_of_sameStream {p : Params} {b : U8} {s t : State} (h : SameStream s t) :
    SameRx (rxByte p b s).1 (rxByte p b t).1 ∧ (rxByte p b t).2 = (rxByte p b s).2 := by
  rw [← rxByte_clears_stallCnt p b t, rxByte_of_sameRx h, rxByte_clears_stallCnt]
  exact ⟨sameRx_withRxOf _ _, rfl⟩

theorem feed_of_sameStream {p : Params} {bs : List U8} {s t : State} (h : SameStream s t) :
    (feed p bs t).2 = (feed p bs s).2 := by
  induction bs generalizing s t with
  | nil => rfl
  | cons b bs ih =>
    obtain ⟨hrx, hframe⟩ := rxByte_of_sameStream (p := p) (b := b) h
    rw [feed_cons, feed_cons, hframe, ih (sameStream_of_sameRx hrx)]

theorem framesIn_cons (r : Response) (rs : List Response) :
    framesIn (r :: rs) = r.emitted.toList ++ framesIn rs := by
  cases h : r.emitted <;> simp [framesIn, h]

/-- The byte an operation gives the parser. -/
def streamByte : Instr → Option U8
  | .rxByte b => some b
  | _ => none

theorem eq_rxByte_of_streamByte {i : Instr} {b : U8} (h : streamByte i = some b) : i = .rxByte b := by
  cases i with
  | rxByte c => exact congrArg _ (Option.some.inj h)
  | _ => cases h

/-- R33: a response that counts no frame carries none. -/
theorem emitted_eq_none_of_framesRx {s t : State} {r : Response} (h : CountsEvents s t r)
    (hrx : t.framesRx = s.framesRx) : r.emitted = none := by
  obtain ⟨hcount, -⟩ := h
  match r with
  | .ok (.rx (some f)) =>
    rw [hrx] at hcount
    simp [eventsOf] at hcount
  | .ok (.rx none) | .ok (.crc _) | .ok (.frameBytes _) | .ok (.statusPayload _)
  | .ok (.statusRecord _) | .ok .done | .ok (.dataPayload _) | .ok (.samples _ _ _) | .ok (.tick _)
  | .ok (.reg _) | .err _ => rfl

/-- R215: a tick that aborts no frame writes the stall count only. -/
theorem sameStream_rxTick {p : Params} {s : State} (h : (rxTick p s).2 = false) :
    SameStream s (rxTick p s).1 := by
  rcases rxTick_cases p s with ⟨_, hs⟩ | ⟨_, _, hs⟩ | ⟨_, _, hs⟩
  · rw [hs]
    exact sameRx_refl { s with rxStallCnt := 0 }
  · rw [hs]
    exact sameRx_refl { s with rxStallCnt := 0 }
  · simp [hs] at h

/-- R39: an operation that is neither RX_BYTE nor RX_TICK writes nothing of the parser's part. -/
theorem sameRx_of_touches {i : Instr} {s t : State} (h : Touches i s t) (hbyte : streamByte i = none)
    (htick : i ≠ .rxTick) : SameRx s t := by
  cases i with
  | rxByte => cases hbyte
  | rxTick => exact absurd rfl htick
  | _ =>
    rw [h]
    exact sameRx_refl s

/-- An operation that brings no byte keeps the place in the stream and emits nothing, but for a tick
that aborts (R217). -/
theorem exec_of_streamByte_eq_none {i : Instr} (hi : streamByte i = none) (s : State) :
    ∃ (t : State) (r : Response), exec i s = .next t ∧ t.responses = s.responses ++ [r] ∧
      r.emitted = none ∧ (r ≠ .ok (.tick true) → SameStream s t) := by
  by_cases htick : i = .rxTick
  · subst htick
    refine ⟨_, .ok (.tick (rxTick Config.params s).2), execRxTick_eq s, by simp, rfl, fun hr => ?_⟩
    exact sameStream_rxTick (by simpa using hr)
  · obtain ⟨t, ht, htouch⟩ := exec_touches i s
    obtain ⟨u, r, hu, hresp, hcount⟩ := exec_countsEvents i s
    obtain rfl : t = u.respond r := by rw [ht] at hu; cases hu; rfl
    have hrx := sameRx_of_touches htouch hi htick
    have ⟨_, _, _, _, _, _, _, hframes, _⟩ := hrx
    exact ⟨_, r, ht, by simp [hresp], emitted_eq_none_of_framesRx hcount hframes.symm,
      fun _ => sameStream_of_sameRx hrx⟩

/-- R213, R217: without an abort, the frames of any operations are those of their stream bytes. -/
theorem execAll_frames (ops : List Instr) (s : State) :
    ∃ (t : State) (rs : List Response), execAll ops s = .next t ∧ t.responses = s.responses ++ rs ∧
      (Response.ok (.tick true) ∉ rs →
        framesIn rs = (feed Config.params (ops.filterMap streamByte) s).2) := by
  induction ops generalizing s with
  | nil => exact ⟨s, [], rfl, (List.append_nil _).symm, fun _ => rfl⟩
  | cons i ops ih =>
    cases hi : streamByte i with
    | none =>
      obtain ⟨t, r, ht, hr, hquiet, hkeep⟩ := exec_of_streamByte_eq_none hi s
      obtain ⟨u, rs, hu, hrs, hframes⟩ := ih t
      refine ⟨u, r :: rs, (execAll_cons ht ops).trans hu, by simp [hrs, hr], fun hab => ?_⟩
      obtain ⟨hnow, hlater⟩ := not_or.mp (List.mem_cons.not.mp hab)
      rw [framesIn_cons, hquiet, List.filterMap_cons_none hi,
        ← feed_of_sameStream (hkeep (Ne.symm hnow))]
      exact hframes hlater
    | some b =>
      obtain rfl := eq_rxByte_of_streamByte hi
      obtain ⟨u, rs, hu, hrs, hframes⟩ :=
        ih ((rxByte Config.params b s).1.respond (.ok (.rx (rxByte Config.params b s).2)))
      refine ⟨u, _ :: rs, (execAll_cons (exec_rxByte b s) ops).trans hu, by simpa using hrs,
        fun hab => ?_⟩
      obtain ⟨-, hlater⟩ := not_or.mp (List.mem_cons.not.mp hab)
      rw [framesIn_cons, List.filterMap_cons_some hi, feed_cons,
        ← feed_of_sameStream (sameStream_respond _ _), ← hframes hlater]
      rfl

end Sys2Proof.Machine

namespace Sys2Proof

open Machine

/-- Settles O53: `feed` runs from byte to byte, and no other operation but an aborting tick comes
between. -/
theorem framesDependOnlyOnTheBytes : Obligations.FramesDependOnlyOnTheBytes :=
  ⟨fun p c1 c2 s => by rw [feed_append], execAll_frames⟩

end Sys2Proof
end

section
/-! PROOF. One RX_BYTE in each state of the parser (spec/44_rx_parser.md R201 to R211), and RX_TICK
(R215, R216): the outcome of each operation is that of its byte or tick, with the answer added. -/

namespace Sys2Proof.Machine

/-! ### The outcome of a byte -/

theorem setIfInBounds_of_lt {k i : Nat} (v : Vector U8 k) (h : i < k) (b : U8) :
    v.setIfInBounds i b = v.set i b := by
  ext1 j hj
  rw [Vector.getElem_setIfInBounds, Vector.getElem_set]

theorem exec_rxByte_of_eq {b : U8} {s t : State} {f : Option Frame}
    (h : rxByte Config.params b s = (t, f)) : exec (.rxByte b) s = .next (t.respond (.ok (.rx f))) := by
  rw [exec_rxByte, h]

theorem rxByte_of_waitSof1 (p : Params) (b : U8) {s : State} (hst : s.rxState = .waitSof1) :
    rxByte p b s = ({ s with
      rxState := if b = 0xA5 then .waitSof2 else .waitSof1, rxStallCnt := 0 }, none) := by
  split
  next hb =>
    subst hb
    exact rxByte_waitSof1_of_eq hst
  next hb => rw [rxByte_waitSof1_of_ne hst hb, ← hst]

theorem rxByte_of_waitSof2 (p : Params) (b : U8) {s : State} (hst : s.rxState = .waitSof2) :
    rxByte p b s = ({ s with
      rxState := if b = 0x5A then .readHeader
        else if p.sof2Retest = true ∧ b = 0xA5 then .waitSof2 else .waitSof1
      rxCount := if b = 0x5A then 0 else s.rxCount, rxStallCnt := 0 }, none) := by
  by_cases hb : b = 0x5A
  · subst hb
    exact rxByte_waitSof2_of_eq hst
  · rw [rxByte_waitSof2_of_ne hst hb, if_neg hb, if_neg hb]

/-! ### The timer -/

theorem exec_rxTick_of_eq {s t : State} {a : Bool} (h : rxTick Config.params s = (t, a)) :
    exec .rxTick s = .next (t.respond (.ok (.tick a))) :=
  (execRxTick_eq s).trans (by rw [h])

theorem rxIdle_succ (k : Nat) : rxIdle (k + 1) = rxIdle k ++ [.rxTick] := List.replicate_succ'

/-- Ticks that stay below the limit are counted, and nothing else (R215). -/
theorem execAll_rxIdle_of_below (k : Nat) {s : State} (hopen : s.rxState ≠ .waitSof1)
    (hbelow : s.rxStallCnt.toNat + k < Config.stallLimit.toNat) :
    execAll (rxIdle k) s = .next { s with
      rxStallCnt := s.rxStallCnt + BitVec.ofNat 32 k
      responses := s.responses ++ List.replicate k (.ok (.tick false)) } := by
  induction k generalizing s with
  | zero => simp [rxIdle, execAll]
  | succ k ih =>
    have hlimit := Config.stallLimit.isLt
    have hnext : (s.rxStallCnt + 1).toNat = s.rxStallCnt.toNat + 1 := by bv_omega
    have htick := rxTick_of_below (p := Config.params) hopen
      (by rw [hnext, Config.params_stallLimit]; omega)
    have hrest := ih (s := { s with rxStallCnt := s.rxStallCnt + 1 }.respond (.ok (.tick false))) hopen
      (by simp only [State.respond_rxStallCnt, hnext]; omega)
    refine (execAll_cons (exec_rxTick_of_eq htick) (rxIdle k)).trans (hrest.trans ?_)
    simp [State.respond, List.replicate_succ, BitVec.add_assoc, BitVec.ofNat_add, BitVec.add_comm 1#32]

end Sys2Proof.Machine

namespace Sys2Proof

open Machine

/-- Settles O38: the byte's outcome in `WaitSOF1`, answered. -/
theorem rxByteInWaitSof1 : Obligations.RxByteInWaitSof1 := fun b _ hst =>
  exec_rxByte_of_eq (rxByte_of_waitSof1 Config.params b hst)

/-- Settles O39; this hardware does not re-test. -/
theorem rxByteInWaitSof2 : Obligations.RxByteInWaitSof2 := by
  intro b s hst
  refine ⟨fun p => rxByte_of_waitSof2 p b hst, ?_⟩
  rw [exec_rxByte_of_eq (rxByte_of_waitSof2 Config.params b hst)]
  simp [State.respond]

/-- Settles O40: the fourth byte is told from the others by the count before it. -/
theorem rxByteInReadHeader : Obligations.RxByteInReadHeader := by
  intro b s hst
  refine ⟨fun hlt => ?stored, fun hlast => ⟨headerLength (s.rxHdr.set 3 b), ?length, ?last⟩⟩
  case stored =>
    rw [exec_rxByte_of_eq (rxByte_readHeader_of_lt hst hlt), setIfInBounds_of_lt _ (by omega)]
    rfl
  case length => simp [headerLength_toNat]
  case last =>
    rw [exec_rxByte_of_eq (rxByte_readHeader_of_eq hst hlast), setIfInBounds_of_lt _ (by omega)]
    simp [State.respond, BitVec.toNat_eq]

/-- Settles O42: the buffer has room for the byte. -/
theorem rxByteStoresTheFirstCrcByte : Obligations.RxByteStoresTheFirstCrcByte := by
  intro b s hst hcnt
  rw [exec_rxByte_of_eq (rxByte_readCrc_of_zero hst hcnt), setIfInBounds_of_lt _ (by omega)]
  rfl

/-- Settles O41: the buffer after the byte is the one write of R206. -/
theorem rxByteInReadPayload : Obligations.RxByteInReadPayload := by
  intro b s hst hcnt
  have hcap : s.rxCount.toNat < Config.rxBufCap := by
    have := s.rxLen.isLt
    simp only [Config.rxBufCap]
    omega
  refine ⟨s.rxPbuf.write s.rxCount.toNat b, Memory.read_write_same _ _ _ hcap,
    fun k hk => Memory.read_write_other _ _ _ k hk, fun hmore => ?_, fun hlast => ?_⟩
  · exact exec_rxByte_of_eq (rxByte_readPayload_of_ne hst (by bv_omega))
  · exact exec_rxByte_of_eq (rxByte_readPayload_of_eq hst (by bv_omega))

/-- Settles O43: the frame is the one the parser holds with its last byte in. -/
theorem rxByteEmitsTheCompletedFrame : Obligations.RxByteEmitsTheCompletedFrame := by
  intro b s hst hcnt
  refine ⟨heldFrame { s with rxCbuf := s.rxCbuf.set 1 b }, ?outcome, rfl, rfl, rfl,
    Memory.firstBytes_length _ _, fun k hk => ?payload, ?crc, ?crcValid, kindKnown_iff _⟩
  case outcome =>
    rw [exec_rxByte_of_eq (rxByte_readCrc_of_one hst hcnt), setIfInBounds_of_lt _ (by omega)]
    rfl
  case payload => simp [heldFrame, byteAt, Memory.firstBytes, hk]
  case crc =>
    simp only [heldFrame, toList_of_crcBuffer, Vector.getElem_set_self, BitVec.toNat_ofNat]
    rw [Nat.mod_eq_of_lt (fromLe_pair_lt _ _)]
    simp
  case crcValid => exact beq_iff_eq

/-- Settles O45: the two cases mid-frame are told apart by the next count, which does not wrap. -/
theorem rxTickCountsAndAborts : Obligations.RxTickCountsAndAborts := by
  refine ⟨rfl, fun s => ⟨fun p =>
    ⟨rxTick_of_idle, fun hopen hbelow => ?counts, fun hopen hlimit hfits => ?aborts⟩,
    (rxTick Config.params s).1, (rxTick Config.params s).2, rfl, ?answer⟩⟩
  case counts => exact rxTick_of_below hopen (by bv_omega)
  case aborts => exact rxTick_of_limit hopen (by bv_omega)
  case answer => rw [exec_rxTick_of_eq (Prod.mk.eta).symm, State.respond, rxTick_responses]

/-- Settles O46: the ticks before the last stay below the limit, and the last reaches it. -/
theorem stallLimitTicksAbortTheFrame : Obligations.StallLimitTicksAbortTheFrame := by
  intro s hopen hzero
  have hpos := Config.stallLimit_pos
  have hlimit := Config.stallLimit.isLt
  obtain ⟨k, hk⟩ : ∃ k, Config.stallLimit.toNat = k + 1 := ⟨_, (Nat.sub_add_cancel hpos).symm⟩
  have hbelow := execAll_rxIdle_of_below k hopen (by simp [hzero, hk])
  have hlast := rxTick_of_limit (p := Config.params) (s := { s with
      rxStallCnt := s.rxStallCnt + BitVec.ofNat 32 k
      responses := s.responses ++ List.replicate k (.ok (.tick false)) }) hopen
    (by rw [Config.params_stallLimit]; bv_omega)
  rw [hk, rxIdle_succ, execAll_append hbelow, execAll_cons (exec_rxTick_of_eq hlast)]
  simp [execAll, stallAbort, State.respond]

end Sys2Proof
end

section
/-! PROOF. A frame fed to the parser (spec/44_rx_parser.md R205, R209, R218, R219): after A5 5A the parser is
the list parser of the refinement, which takes every byte for data until the second one after the payload.
So each frame comes out alone, at its last byte; what TX_FRAME built with its CRC right, and what differs from
that in one bit with its CRC wrong. -/

namespace Sys2Proof.Machine

/-! ### The start of a frame -/

/-- The parser takes A5 5A for the start of a frame: it searches, or it has seen an 0xA5 and tests the
rejected byte again (R202). -/
def TakesSof (p : Params) (s : State) : Prop :=
  s.rxState = .waitSof1 ∨ (p.sof2Retest = true ∧ s.rxState = .waitSof2)

theorem rxByte_sof1 {p : Params} {s : State} (h : TakesSof p s) :
    rxByte p 0xA5 s = ({ s with rxState := .waitSof2, rxStallCnt := 0 }, none) := by
  rcases h with hst | ⟨hretest, hst⟩
  · exact rxByte_waitSof1_of_eq hst
  · rw [rxByte_waitSof2_of_ne hst (by decide), if_pos ⟨hretest, rfl⟩]

/-- R202: the header starts empty. -/
theorem rxByte_sof2 {p : Params} {s : State} (h : s.rxState = .waitSof2) :
    Represents (rxByte p 0x5A s).1 (.inFrame []) ∧ (rxByte p 0x5A s).2 = none := by
  have hbyte := rxByte_waitSof2_of_eq (p := p) h
  exact ⟨.inl (by rw [hbyte]; exact ⟨rfl, Nat.zero_le 3, rfl⟩), by rw [hbyte]⟩

theorem feed_sof {p : Params} {s : State} (h : TakesSof p s) :
    Represents (feed p [0xA5, 0x5A] s).1 (.inFrame []) ∧ emissions p [0xA5, 0x5A] s = [none, none] := by
  have hfirst := rxByte_sof1 h
  obtain ⟨hframe, hquiet⟩ := rxByte_sof2 (p := p) (s := (rxByte p 0xA5 s).1) (by rw [hfirst])
  have hnone : (rxByte p 0xA5 s).2 = none := by rw [hfirst]
  exact ⟨hframe, by rw [emissions, emissions, emissions, hnone, hquiet]⟩

/-! ### The bytes of a frame -/

theorem declaredLength_append {got : List U8} (h : 4 ≤ got.length) (more : List U8) :
    declaredLength (got ++ more) = declaredLength got := by
  have hfit : 4 - 2 ≤ (got.drop 2).length := by rw [List.length_drop]; omega
  rw [declaredLength, declaredLength, slice, slice, List.drop_append_of_le_length (by omega),
    List.take_append_of_le_length hfit]

/-- R219: inside a frame every byte is data, and the second one after the payload ends it. -/
theorem emissions_inFrame {p : Params} {s : State} {got : List U8} (more : List U8) (b : U8)
    (hs : Represents s (.inFrame got))
    (hwhole : (got ++ more ++ [b]).length = 6 + declaredLength (got ++ more ++ [b])) :
    emissions p (more ++ [b]) s =
        List.replicate more.length none ++ [some (frameOf (got ++ more ++ [b]))] ∧
      (feed p (more ++ [b]) s).1.rxState = .waitSof1 := by
  induction more generalizing got s with
  | nil =>
    rw [List.append_nil] at hwhole ⊢
    obtain ⟨hidle, hframe⟩ := parserRefinesTheByteListParser p b s _ hs
    rw [next_inFrame_of_end (by simpa using hwhole)] at hidle hframe
    exact ⟨congrArg ([·]) hframe, hidle.1⟩
  | cons c more ih =>
    obtain ⟨hnext, hquiet⟩ := parserRefinesTheByteListParser p c s _ hs
    have hmore : got.length < 3 ∨ got.length + 1 ≠ 6 + declaredLength (got ++ [c]) := by
      by_contra! hend
      have hdecl := declaredLength_append (got := got ++ [c]) (by simp; omega) (more ++ [b])
      simp at hwhole hdecl
      omega
    rw [next_inFrame_of_more hmore] at hnext hquiet
    rw [List.append_cons got c more] at hwhole ⊢
    obtain ⟨hrest, hidle⟩ := ih hnext hwhole
    rw [List.cons_append, emissions, hquiet, hrest]
    exact ⟨rfl, hidle⟩

/-- A frame's bytes from its version to its payload are as many as its length bytes say. -/
def IsBody (body : List U8) : Prop := body.length = 4 + declaredLength body

/-- The bytes of a frame around its body. -/
def framed (body : List U8) (lo hi : U8) : List U8 := [0xA5, 0x5A] ++ body ++ [lo, hi]

/-- R209: a frame is emitted once, at its last byte. -/
theorem emissions_framed {p : Params} {s : State} {body : List U8} (hs : TakesSof p s)
    (hbody : IsBody body) (lo hi : U8) :
    emissions p (framed body lo hi) s =
        List.replicate (body.length + 3) none ++ [some (frameOf (body ++ [lo, hi]))] ∧
      (feed p (framed body lo hi) s).1.rxState = .waitSof1 := by
  obtain ⟨hstart, hquiet⟩ := feed_sof hs
  have hdecl := declaredLength_append (got := body) (by rw [hbody]; omega) [lo, hi]
  obtain ⟨hrest, hidle⟩ := emissions_inFrame (p := p) (body ++ [lo]) hi hstart (by
    simp only [List.nil_append, List.append_assoc, List.singleton_append, hdecl]
    rw [List.length_append, hbody]
    simp only [List.length_cons, List.length_nil]
    omega)
  rw [List.nil_append, List.append_assoc, List.singleton_append] at hrest
  rw [List.append_assoc, List.singleton_append] at hidle
  rw [framed, List.append_assoc, emissions_append, feed_append, hquiet, hrest, List.length_append]
  exact ⟨rfl, hidle⟩

theorem frameOf_body {body : List U8} (hbody : IsBody body) (lo hi : U8) :
    frameOf (body ++ [lo, hi]) =
      { version := byteAt body 0, kind := byteAt body 1, length := BitVec.ofNat 16 (declaredLength body)
        payload := body.drop 4, crc := BitVec.ofNat 16 (fromLe [lo, hi])
        crcValid := decide (crc16 body = BitVec.ofNat 16 (fromLe [lo, hi]))
        kindKnown := decide (1 ≤ (byteAt body 1).toNat ∧ (byteAt body 1).toNat ≤ 5) } := by
  have hfour : 4 ≤ body.length := by rw [hbody]; omega
  have hcovered : slice (body ++ [lo, hi]) 0 (4 + declaredLength body) = body :=
    slice_zero_append _ _ _ hbody
  have hcrc : slice (body ++ [lo, hi]) (4 + declaredLength body) (6 + declaredLength body) = [lo, hi] := by
    rw [slice_append_right _ _ _ hbody, List.take_of_length_le (by simp; omega)]
  have hpayload : slice (body ++ [lo, hi]) 4 (4 + declaredLength body) = body.drop 4 := by
    have hsplit := slice_append_middle (body.take 4) (body.drop 4) [lo, hi] (a := 4)
      (b := 4 + declaredLength body) (by simp [hfour]) (by rw [List.length_drop, hbody]; omega)
    rwa [List.take_append_drop] at hsplit
  simp only [frameOf, declaredLength_append hfour, hcovered, hcrc, hpayload,
    byteAt_append_of_lt (s := body) (k := 0) (by omega), byteAt_append_of_lt (s := body) (k := 1) (by omega)]

/-! ### A frame as RX_BYTE operations -/

theorem reduceOption_emitsLast (n : Nat) (f : Frame) :
    (List.replicate n none ++ [some f]).reduceOption = [f] := by
  rw [List.reduceOption_append, List.reduceOption_replicate_none]
  rfl

/-- Feeding `n` bytes brought the frame `f` and nothing else, at the last byte. -/
structure Receives (s t : State) (n : Nat) (f : Frame) : Prop where
  onlyRx : OnlyRxChanges s t
  idle : t.rxState = .waitSof1
  responses : t.responses =
    s.responses ++ List.replicate (n - 1) (.ok (.rx none)) ++ [.ok (.rx (some f))]
  framesRx : t.framesRx = s.framesRx + 1
  stallAborts : t.stallAborts = s.stallAborts
  crcErrors : t.crcErrors = if f.crcValid = true then s.crcErrors else s.crcErrors + 1

theorem framed_length (body : List U8) (lo hi : U8) : (framed body lo hi).length = body.length + 4 := by
  simp [framed]

/-- R209: from any state that takes a SOF, RX_BYTES of a frame receives it. -/
theorem execAll_framed {s : State} {body : List U8} (hs : TakesSof Config.params s) (hbody : IsBody body)
    (lo hi : U8) :
    ∃ t, execAll (rxBytes (framed body lo hi)) s = .next t ∧
      Receives s t (framed body lo hi).length (frameOf (body ++ [lo, hi])) := by
  obtain ⟨hemit, hidle⟩ := emissions_framed hs hbody lo hi
  obtain ⟨hrx, hcrc, habort⟩ := feed_counts Config.params (framed body lo hi) s
  have hfeed := feed_frames Config.params (framed body lo hi) s
  rw [hemit, reduceOption_emitsLast] at hfeed
  rw [hfeed] at hrx hcrc
  refine ⟨_, execAll_rxBytes _ s, ?onlyRx, hidle, ?responses, hrx, habort, ?crcErrors⟩
  case onlyRx =>
    rw [feed_onlyRxChanges Config.params (framed body lo hi) s]
    rfl
  case responses =>
    simp only [hemit, framed_length, List.map_append, List.map_replicate, List.append_assoc]
    rfl
  case crcErrors =>
    refine hcrc.trans ?_
    cases hvalid : (frameOf (body ++ [lo, hi])).crcValid <;> simp [hvalid]

/-! ### The frame of its parts -/

/-- A body of these parts, the length in its two bytes (R71). -/
def bodyOf (version kind : U8) (payload : List U8) : List U8 :=
  [version, kind] ++ leBytes 2 payload.length ++ payload

theorem bodyOf_length (version kind : U8) (payload : List U8) :
    (bodyOf version kind payload).length = 4 + payload.length := by
  rw [bodyOf, List.length_append, List.length_append, leBytes_length]
  rfl

theorem declaredLength_bodyOf {payload : List U8} (h : payload.length ≤ 65535) (version kind : U8) :
    declaredLength (bodyOf version kind payload) = payload.length :=
  fromLe_leBytes (w := 2) (Nat.lt_succ_of_le h)

theorem isBody_bodyOf {payload : List U8} (h : payload.length ≤ 65535) (version kind : U8) :
    IsBody (bodyOf version kind payload) := by
  rw [IsBody, declaredLength_bodyOf h, bodyOf_length]

/-- R211: the frame of these parts. -/
theorem frameOf_bodyOf {payload : List U8} (h : payload.length ≤ 65535) (version kind lo hi : U8) :
    frameOf (bodyOf version kind payload ++ [lo, hi]) =
      { version := version, kind := kind, length := BitVec.ofNat 16 payload.length, payload := payload
        crc := BitVec.ofNat 16 (fromLe [lo, hi])
        crcValid := decide (crc16 (bodyOf version kind payload) = BitVec.ofNat 16 (fromLe [lo, hi]))
        kindKnown := decide (1 ≤ kind.toNat ∧ kind.toNat ≤ 5) } := by
  rw [frameOf_body (isBody_bodyOf h version kind), declaredLength_bodyOf h]
  rfl

/-- The two bytes of a CRC, low byte first. -/
theorem le16_eq_pair (v : U16) :
    ∃ lo hi : U8, le16 v = [lo, hi] ∧ BitVec.ofNat 16 (fromLe [lo, hi]) = v :=
  ⟨_, _, rfl, (congrArg (BitVec.ofNat 16) (fromLe_le16 v)).trans (by simp)⟩

/-! ### The frames TX_FRAME builds (R218) -/

theorem frameBody_eq_bodyOf (kind : U8) (payload : List U8) :
    frameBody kind payload = bodyOf 0x01 kind payload := rfl

theorem frameAround_eq_framed {kind lo hi : U8} {payload : List U8}
    (hcrc : le16 (crc16 (frameBody kind payload)) = [lo, hi]) :
    frameAround kind payload = framed (frameBody kind payload) lo hi := by
  rw [frameAround, hcrc]
  rfl

/-- The frame whose CRC bytes are the CRC of its body is the one sent. -/
theorem frameOf_frameBody {kind lo hi : U8} {payload : List U8} (hlen : payload.length ≤ 65535)
    (hkind : 1 ≤ kind.toNat ∧ kind.toNat ≤ 5)
    (hvalue : BitVec.ofNat 16 (fromLe [lo, hi]) = crc16 (frameBody kind payload)) :
    frameOf (frameBody kind payload ++ [lo, hi]) = sentFrame kind payload := by
  rw [frameBody_eq_bodyOf] at hvalue ⊢
  rw [frameOf_bodyOf hlen, hvalue, decide_eq_true hkind, decide_eq_true rfl]
  rfl

theorem execAll_frameAround {s : State} {kind : U8} {payload : List U8} (hs : TakesSof Config.params s)
    (hlen : payload.length ≤ 65535) (hkind : 1 ≤ kind.toNat ∧ kind.toNat ≤ 5) :
    ∃ t, execAll (rxBytes (frameAround kind payload)) s = .next t ∧
      Receives s t (frameAround kind payload).length (sentFrame kind payload) := by
  obtain ⟨lo, hi, hcrc, hvalue⟩ := le16_eq_pair (crc16 (frameBody kind payload))
  rw [frameAround_eq_framed hcrc, ← frameOf_frameBody hlen hkind hvalue]
  exact execAll_framed hs (isBody_bodyOf hlen _ kind) lo hi

/-! ### A flipped bit -/

theorem declaredLength_set {s : List U8} {j : Nat} (b : U8) (h2 : j ≠ 2) (h3 : j ≠ 3) :
    declaredLength (s.set j b) = declaredLength s := by
  have hslice : slice (s.set j b) 2 4 = slice s 2 4 := by
    rw [slice, slice]
    by_cases hlow : j < 2
    · rw [List.drop_set_of_lt hlow]
    · rw [List.drop_set, if_neg hlow, List.take_set_of_le (by omega)]
  rw [declaredLength, declaredLength, hslice]

/-- A flip outside the length bytes leaves a body of the same length. -/
theorem isBody_flipBit {body : List U8} {j k : Nat} (h : IsBody body) (h2 : j ≠ 2) (h3 : j ≠ 3) :
    IsBody (flipBit body j k) := by
  rw [IsBody, flipBit, List.length_set, declaredLength_set _ h2 h3, h]

theorem flipBit_framed {body : List U8} {j k : Nat} {lo hi : U8} (h : j < body.length) :
    flipBit (framed body lo hi) (2 + j) k = framed (flipBit body j k) lo hi := by
  have hinside : flipBit (body ++ [lo, hi]) j k = flipBit body j k ++ [lo, hi] := by
    rw [flipBit, flipBit, byteAt_append_of_lt h, List.set_append_left _ _ h]
  rw [framed, List.append_assoc, Nat.add_comm, framed, List.append_assoc, ← hinside]
  rfl

theorem framesIn_emitsLast (rs : List Response) (n : Nat) (f : Frame) :
    framesIn (rs ++ List.replicate n (.ok (.rx none)) ++ [.ok (.rx (some f))]) = framesIn rs ++ [f] := by
  simp [framesIn, Response.emitted]

end Sys2Proof.Machine

namespace Sys2Proof

open Machine

/-- Settles O50: these bytes are a whole frame, which the parser receives. -/
theorem everyCompleteFrameIsEmitted : Obligations.EveryCompleteFrameIsEmitted := by
  intro version kind lo hi payload s hlen hst
  obtain ⟨t, ht, hrec⟩ := execAll_framed (.inl hst) (isBody_bodyOf hlen version kind) lo hi
  have hcount : (framed (bodyOf version kind payload) lo hi).length - 1 = payload.length + 7 := by
    rw [framed_length, bodyOf_length]
    omega
  refine ⟨t, _, ht, hrec.onlyRx, hrec.idle, hcount ▸ hrec.responses, hrec.framesRx, hrec.stallAborts,
    hrec.crcErrors, ?_⟩
  rw [frameOf_bodyOf hlen]
  refine ⟨rfl, rfl, ?_, rfl, ?_, decide_eq_true_iff, decide_eq_true_iff⟩
  · exact (BitVec.toNat_ofNat _ _).trans (Nat.mod_eq_of_lt (Nat.lt_succ_of_le hlen))
  · exact (BitVec.toNat_ofNat _ _).trans (Nat.mod_eq_of_lt (fromLe_pair_lt lo hi))

/-- Settles O51: what TX_FRAME returns is a whole frame of a known kind with the CRC of its body. -/
theorem transmittedFramesAreReceived : Obligations.TransmittedFramesAreReceived := by
  intro kind payload s st hlen hlow hhigh hst
  obtain ⟨t, ht, hrec⟩ := execAll_frameAround (.inl hst) hlen ⟨hlow, hhigh⟩
  have hcount : (frameAround kind payload).length - 1 = payload.length + 7 := by
    rw [frameAround_length]
    omega
  exact ⟨frameAround kind payload, t, exec_txFrame_of_known hlen ⟨hlow, hhigh⟩ st, ht, hrec.idle,
    hrec.framesRx, hrec.crcErrors, hcount ▸ hrec.responses⟩

/-- Settles O52: the flip leaves a whole frame around a body whose CRC is another. -/
theorem singleBitErrorsAreFlagged : Obligations.SingleBitErrorsAreFlagged := by
  intro kind payload j k s hlen hst hj hj2 hj3 hk
  obtain ⟨lo, hi, hcrc, hvalue⟩ := le16_eq_pair (crc16 (frameBody kind payload))
  have hlt : j < (frameBody kind payload).length := by rwa [frameBody_length]
  have hbody : IsBody (flipBit (frameBody kind payload) j k) :=
    isBody_flipBit (isBody_bodyOf hlen _ kind) hj2 hj3
  obtain ⟨t, ht, hrec⟩ := execAll_framed (.inl hst) hbody lo hi
  rw [← flipBit_framed hlt, ← frameAround_eq_framed hcrc] at ht
  have hbad : (frameOf (flipBit (frameBody kind payload) j k ++ [lo, hi])).crcValid = false := by
    rw [frameOf_body hbody, hvalue]
    exact decide_eq_false (crcSeesEverySingleBitFlip _ j k hlt hk)
  refine ⟨t, _, ht, ?_, hbad, ?_, hrec.idle⟩
  · rw [hrec.responses, framesIn_emitsLast]
  · rw [hrec.crcErrors, hbad]
    rfl

end Sys2Proof
end

section
/-! PROOF. Resynchronization (spec/44_rx_parser.md R214): garbage without a SOF match never leads the parser
out of the search, and the run of 0xA5 it ends in says whether the parser has seen a SOF1. A frame after it
is received unless its own 0xA5 is taken for the failed SOF2 of that run. -/

namespace Sys2Proof.Machine

/-! ### The run of 0xA5 at the end -/

/-- The garbage leaves a SOF1 seen (R214 case 1): its final run of 0xA5 is odd in length where the rejected
byte is dropped, and not empty where it is tested again. -/
abbrev EndsInOpenSof1 (p : Params) (g : List U8) : Prop :=
  (p.sof2Retest = false ∧ finalSof1Run g % 2 = 1) ∨ (p.sof2Retest = true ∧ 0 < finalSof1Run g)

theorem finalSof1Run_append (g : List U8) (b : U8) :
    finalSof1Run (g ++ [b]) = if b = 0xA5 then finalSof1Run g + 1 else 0 := by
  rw [finalSof1Run, List.reverse_append, List.reverse_singleton, List.singleton_append]
  by_cases hb : b = 0xA5
  · rw [List.takeWhile_cons_of_pos (by exact decide_eq_true hb), if_pos hb]
    rfl
  · rw [List.takeWhile_cons_of_neg (by exact fun h => hb (of_decide_eq_true h)), if_neg hb]
    rfl

theorem endsInOpenSof1_of_drop {p : Params} (hretest : p.sof2Retest = false) (g : List U8) :
    EndsInOpenSof1 p g ↔ finalSof1Run g % 2 = 1 := by
  simp [EndsInOpenSof1, hretest]

theorem endsInOpenSof1_of_retest {p : Params} (hretest : p.sof2Retest = true) (g : List U8) :
    EndsInOpenSof1 p g ↔ 0 < finalSof1Run g := by
  simp [EndsInOpenSof1, hretest]

/-- An 0xA5 leaves a SOF1 seen unless it fails as the SOF2 of the one before it. -/
theorem endsInOpenSof1_append (p : Params) (g : List U8) (b : U8) :
    EndsInOpenSof1 p (g ++ [b]) ↔ b = 0xA5 ∧ (p.sof2Retest = true ∨ ¬ EndsInOpenSof1 p g) := by
  cases hretest : p.sof2Retest with
  | false =>
    rw [endsInOpenSof1_of_drop hretest, endsInOpenSof1_of_drop hretest, finalSof1Run_append]
    split
    next hb =>
      rw [and_iff_right hb, or_iff_right Bool.false_ne_true]
      omega
    next hb => exact ⟨fun h => absurd h (by decide), fun h => absurd h.1 hb⟩
  | true =>
    rw [endsInOpenSof1_of_retest hretest, finalSof1Run_append]
    split
    next hb => exact ⟨fun _ => ⟨hb, .inl rfl⟩, fun _ => Nat.succ_pos _⟩
    next hb => exact ⟨fun h => absurd h (by decide), fun h => absurd h.1 hb⟩

/-! ### Garbage -/

theorem NoSofMatch.dropLast {p : Params} {g : List U8} {b : U8} {s : State}
    (h : NoSofMatch p (g ++ [b]) s) : NoSofMatch p g s := fun before after hg =>
  h before (after ++ [b]) (by rw [hg, List.append_assoc, List.cons_append])

/-- R214 case 1: the parser keeps searching, and has seen a SOF1 exactly when the garbage leaves one. -/
theorem feed_garbage {p : Params} {g : List U8} {s : State} (hst : s.rxState = .waitSof1)
    (h : NoSofMatch p g s) :
    (feed p g s).2 = [] ∧
      (feed p g s).1.rxState = if EndsInOpenSof1 p g then .waitSof2 else .waitSof1 := by
  induction g using List.reverseRecOn with
  | nil => exact ⟨rfl, hst.trans (if_neg (by simp [finalSof1Run])).symm⟩
  | append_singleton g b ih =>
    obtain ⟨hquiet, hbefore⟩ := ih h.dropLast
    rw [feed_append, feed_singleton, hquiet]
    by_cases hopen : EndsInOpenSof1 p g
    · rw [if_pos hopen] at hbefore
      have hb : b ≠ 0x5A := fun e => h g [] (by rw [e]) hbefore
      rw [rxByte_waitSof2_of_ne hbefore hb]
      refine ⟨rfl, if_congr ?_ rfl rfl⟩
      rw [endsInOpenSof1_append, and_comm, or_iff_left (not_not.mpr hopen)]
    · rw [if_neg hopen] at hbefore
      rw [rxByte_of_waitSof1 p b hbefore]
      refine ⟨rfl, if_congr ?_ rfl rfl⟩
      rw [endsInOpenSof1_append, and_iff_left (.inr hopen)]

/-- R201, R202: only an 0xA5 leads to `WaitSOF2`. -/
theorem eq_sof1_of_waitSof2 {p : Params} {b : U8} {s : State}
    (h : (rxByte p b s).1.rxState = .waitSof2) : b = 0xA5 := by
  by_contra hb
  cases hst : s.rxState with
  | waitSof1 =>
    rw [rxByte_waitSof1_of_ne hst hb] at h
    cases hst.symm.trans h
  | waitSof2 =>
    rw [rxByte_of_waitSof2 p b hst] at h
    simp only [hb, and_false, if_false] at h
    split at h <;> cases h
  | readHeader =>
    rw [rxByte_readHeader hst, rxReadHeader] at h
    simp only at h
    split at h
    · simp only at h
      split at h <;> cases h
    · simp [hst] at h
  | readPayload =>
    rw [rxByte_readPayload hst, rxReadPayload] at h
    simp only at h
    split at h <;> simp [hst] at h
  | readCrc =>
    rw [rxByte_readCrc hst, rxReadCrc] at h
    simp only at h
    split at h <;> simp [hst] at h

theorem noSofMatch_of_noSofPair (p : Params) {g : List U8} {s : State} (hst : s.rxState = .waitSof1)
    (h : NoSofPair g) : NoSofMatch p g s := by
  intro before after hg hwait
  rcases List.eq_nil_or_concat before with rfl | ⟨init, b, rfl⟩
  · cases hst.symm.trans hwait
  · rw [List.concat_eq_append, feed_append, feed_singleton] at hwait
    obtain rfl := eq_sof1_of_waitSof2 hwait
    exact h ⟨init, after, by simp [hg]⟩

/-! ### The frame after it -/

/-- R214 case 2 and 3. -/
theorem feed_frameAround {p : Params} {s : State} {kind : U8} {payload : List U8} (hs : TakesSof p s)
    (hlen : payload.length ≤ 65535) (hkind : 1 ≤ kind.toNat ∧ kind.toNat ≤ 5) :
    (feed p (frameAround kind payload) s).2 = [sentFrame kind payload] ∧
      (feed p (frameAround kind payload) s).1.rxState = .waitSof1 := by
  obtain ⟨lo, hi, hcrc, hvalue⟩ := le16_eq_pair (crc16 (frameBody kind payload))
  obtain ⟨hemit, hidle⟩ := emissions_framed hs (isBody_bodyOf hlen 0x01 kind) lo hi
  rw [frameAround_eq_framed hcrc, feed_frames, ← frameOf_frameBody hlen hkind hvalue,
    frameBody_eq_bodyOf, hemit, reduceOption_emitsLast]
  exact ⟨rfl, hidle⟩

/-- R214 case 4: both SOF bytes are dropped. -/
theorem feed_sof_of_waitSof2 {p : Params} {s : State} (hretest : p.sof2Retest = false)
    (hst : s.rxState = .waitSof2) :
    (feed p [0xA5, 0x5A] s).2 = [] ∧ (feed p [0xA5, 0x5A] s).1.rxState = .waitSof1 := by
  have hfirst := rxByte_waitSof2_of_ne (p := p) (b := 0xA5) hst (by decide)
  rw [if_neg (by simp [hretest])] at hfirst
  rw [feed_cons, hfirst, feed_singleton, rxByte_waitSof1_of_ne rfl (by decide)]
  exact ⟨rfl, rfl⟩

end Sys2Proof.Machine

namespace Sys2Proof

open Machine

/-- Settles O54: byte by byte, by the run of 0xA5 so far; and an 0xA5 stands before every 0x5A that meets
`WaitSOF2`. -/
theorem garbageEmitsNothing : Obligations.GarbageEmitsNothing := fun p _ _ hst =>
  ⟨feed_garbage hst, noSofMatch_of_noSofPair p hst⟩

/-- Settles O55: the frame meets a parser that takes its SOF, or one whose failed SOF2 it brings. -/
theorem frameAfterGarbageIsReceived : Obligations.FrameAfterGarbageIsReceived := by
  intro p g kind payload s hst hg hlow hhigh hlen
  obtain ⟨hquiet, hafter⟩ := feed_garbage hst hg
  refine ⟨fun htakes => ?received, fun hretest hodd => ?lost⟩
  case received =>
    have hsof : TakesSof p (feed p g s).1 := by
      by_cases hopen : EndsInOpenSof1 p g
      · rw [if_pos hopen] at hafter
        have hretest : p.sof2Retest = true := by
          rcases hopen with ⟨_, hodd⟩ | ⟨hretest, _⟩
          · exact htakes.resolve_right (by omega)
          · exact hretest
        exact .inr ⟨hretest, hafter⟩
      · exact .inl (hafter.trans (if_neg hopen))
    obtain ⟨hframe, hidle⟩ := feed_frameAround hsof hlen ⟨hlow, hhigh⟩
    rw [feed_append, hquiet, hframe]
    exact ⟨rfl, hidle⟩
  case lost =>
    rw [if_pos (.inl ⟨hretest, hodd⟩)] at hafter
    obtain ⟨hdropped, hidle⟩ := feed_sof_of_waitSof2 hretest hafter
    have hsplit : g ++ frameAround kind payload =
        (g ++ [0xA5, 0x5A]) ++ (frameAround kind payload).drop 2 := by
      rw [List.append_assoc]
      rfl
    refine ⟨by rw [feed_append]; exact hidle, ?_⟩
    rw [hsplit, feed_append, feed_append p g, hquiet, hdropped]
    rfl

end Sys2Proof
end

section
/-! PROOF. The control operations (spec/45_control.md): the step on a reserved opcode (R242), and REG_READ of
every number (R240, R241), by the register the number names. -/

namespace Sys2Proof.Machine

/-! ### The step on a reserved opcode -/

/-- R87: a reserved opcode is a whole request, whatever stands behind it. -/
theorem decode_of_reservedOpcode {op : U8} (h : ReservedOpcode op) (rest : List U8) :
    decode (op :: rest) = .reserved op rest :=
  (reservedOpcodesAreOneByteRequests op rest).mpr h

theorem fetch_of_reservedOpcode {op : U8} (h : ReservedOpcode op) (rest : List HostInput) :
    fetch (.byte op :: rest) = .reserved op rest := by
  have hdecode : decode (leadingBytes (.byte op :: rest)) = .reserved op (leadingBytes rest) :=
    decode_of_reservedOpcode h (leadingBytes rest)
  have htail : asInput (leadingBytes rest) ++ afterLeadingBytes (.byte op :: rest) = rest :=
    asInput_leadingBytes rest
  simp only [fetch, hdecode, htail]

theorem step_of_fetch_reserved {s : State} {op : U8} {rest : List HostInput}
    (h : fetch s.port = .reserved op rest) :
    step s = raise .illegalOperation { s with port := rest } := by
  simp only [step, h]

/-! ### The number of a register -/

/-- R241: these numbers name no register. -/
theorem Register.ofNumber_eq_none {r : U8} (h : r.toNat = 0x0E ∨ r.toNat = 0x0F ∨ 0x18 ≤ r.toNat) :
    Register.ofNumber r = none := by
  have hlow (n : U8) (hn : n.toNat < 0x0E) : r ≠ n := by
    rintro rfl
    omega
  have hbits : ¬ (0x10 ≤ r.toNat ∧ r.toNat < 0x18) := by omega
  rw [Register.ofNumber, dif_neg hbits]
  simp [hlow]

theorem exec_regRead_of_none {r : U8} (h : Register.ofNumber r = none) (s : State) :
    exec (.regRead r) s = raise .badRegister s := by
  change execRegRead r s = _
  simp only [execRegRead, h]

/-- R240: the number of a register reads that register. -/
theorem exec_regRead_number (g : Register) (s : State) :
    exec (.regRead g.number) s = ret (.reg (readRegister Config.params s g)) s := by
  change execRegRead g.number s = _
  simp only [execRegRead, Register.ofNumber_number]

/-! ### The values of the registers -/

theorem RxState.setWidth_code (st : RxState) :
    st.code.setWidth 32 = match st with
      | .waitSof1 => (0 : U32) | .waitSof2 => 1 | .readHeader => 2 | .readPayload => 3 | .readCrc => 4 := by
  cases st <;> rfl

/-- A byte below a shifted value adds to it. -/
theorem or_shiftLeft_eq_add (x y n : Nat) (h : x < 2 ^ n) : x ||| y <<< n = x + 2 ^ n * y := by
  rw [Nat.or_comm, ← Nat.shiftLeft_add_eq_or_of_lt h, Nat.shiftLeft_eq, Nat.mul_comm, Nat.add_comm]

/-- Four bytes at bits 7..0, 15..8, 23..16 and 31..24 are their little-endian value. -/
theorem toNat_or_bytes (a b c d : U8) :
    (a.setWidth 32 ||| b.setWidth 32 <<< 8 ||| c.setWidth 32 <<< 16 ||| d.setWidth 32 <<< 24 : U32).toNat =
      fromLe [a, b, c, d] := by
  have ha := a.isLt
  have hb := b.isLt
  have hc := c.isLt
  have hd := d.isLt
  have hshift (x : U8) {n : Nat} (hn : n ≤ 24) : (x.setWidth 32 <<< n : U32).toNat = x.toNat <<< n := by
    rw [BitVec.toNat_shiftLeft, BitVec.toNat_setWidth_of_le (by decide), Nat.shiftLeft_eq]
    apply Nat.mod_eq_of_lt
    calc x.toNat * 2 ^ n
        < 2 ^ 8 * 2 ^ n := Nat.mul_lt_mul_of_pos_right x.isLt (Nat.two_pow_pos n)
      _ ≤ 2 ^ 8 * 2 ^ 24 := Nat.mul_le_mul_left _ (Nat.pow_le_pow_right (by decide) hn)
  rw [BitVec.toNat_or, BitVec.toNat_or, BitVec.toNat_or, hshift b (by decide), hshift c (by decide),
    hshift d le_rfl, BitVec.toNat_setWidth_of_le (by decide), or_shiftLeft_eq_add _ _ 8 ha,
    or_shiftLeft_eq_add _ _ 16 (by omega), or_shiftLeft_eq_add _ _ 24 (by omega)]
  simp only [fromLe_cons, fromLe_nil]
  omega

/-- R35: the widths of sensors `4k` to `4k + 3`. -/
theorem take_drop_layoutBits (bits : PerSensor U8) (k : Fin 8) :
    (bits.toList.drop (4 * k.val)).take 4 =
      [bits[4 * k.val]'(by omega), bits[4 * k.val + 1]'(by omega), bits[4 * k.val + 2]'(by omega),
        bits[4 * k.val + 3]'(by omega)] := by
  apply List.ext_getElem
  · simp only [List.length_take, List.length_drop, Vector.length_toList, List.length_cons, List.length_nil]
    omega
  · intro i _ hlen
    have hi : i < 4 := hlen
    interval_cases i <;> simp

/-- R35: a `LAYOUT_BITS` register is the little-endian value of its four widths. -/
theorem layoutWord_toNat (bits : PerSensor U8) (k : Fin 8) :
    (layoutWord bits k).toNat = fromLe ((bits.toList.drop (4 * k.val)).take 4) := by
  rw [take_drop_layoutBits]
  exact toNat_or_bytes _ _ _ _

/-- R240: what REG_READ answers on the number of a register, and that it writes nothing. -/
theorem exec_regRead_of_eq {g : Register} {v : U32} {s : State}
    (h : readRegister Config.params s g = v) :
    exec (.regRead g.number) s = .next { s with responses := s.responses ++ [.ok (.reg v)] } := by
  rw [exec_regRead_number, h, ret_adds]

end Sys2Proof.Machine

namespace Sys2Proof

open Machine

/-- Settles O6: the reserved opcode is fetched alone, and answered with the block's exception. -/
theorem reservedOpcodeAnswersIllegalOperation : Obligations.ReservedOpcodeAnswersIllegalOperation := by
  intro s op rest hop hport
  have hfetch : fetch s.port = .reserved op rest := hport ▸ fetch_of_reservedOpcode hop rest
  rw [step_of_fetch_reserved hfetch, raise_keeps]

/-- Settles O57: the listed numbers are those of the registers of R35, each read at its value, and the
other numbers name none. -/
theorem regReadValues : Obligations.RegReadValues := by
  intro s
  refine ⟨fun _ => rfl, exec_regRead_of_eq (g := .version) rfl,
    exec_regRead_of_eq (g := .crcAcc) (BitVec.ofNat_toNat ..).symm,
    exec_regRead_of_eq (g := .rxState) (RxState.setWidth_code s.rxState),
    exec_regRead_of_eq (g := .rxLen) (BitVec.ofNat_toNat ..).symm,
    exec_regRead_of_eq (g := .rxCount) (BitVec.ofNat_toNat ..).symm,
    exec_regRead_of_eq (g := .rxStallCnt) rfl, exec_regRead_of_eq (g := .framesRx) rfl,
    exec_regRead_of_eq (g := .crcErrors) rfl, exec_regRead_of_eq (g := .stallAborts) rfl,
    exec_regRead_of_eq (g := .framesTx) rfl, exec_regRead_of_eq (g := .layoutCtrl) rfl,
    exec_regRead_of_eq (g := .layoutMap) rfl, exec_regRead_of_eq (g := .config) rfl,
    exec_regRead_of_eq (g := .stallLimit) rfl, fun k => ?bits, fun r hr => ?none⟩
  case bits =>
    exact ⟨layoutWord s.layoutBits k, exec_regRead_of_eq (g := .layoutBits k) rfl,
      layoutWord_toNat s.layoutBits k⟩
  case none => rw [exec_regRead_of_none (Register.ofNumber_eq_none hr), raise_keeps]

end Sys2Proof
end

section
/-! PROOF. Errors (spec/60_exceptions.md). An operation either raises an error that R253 lists for it, on the
state as it found it (R250, R254), or it returns; each listed error has operands and a state that raise it;
RX_BYTE and RX_TICK always return (R256); and whatever is fetched, the step has a next state (R260). -/

namespace Sys2Proof.Machine

/-! ### How an operation ends -/

/-- R250, R253: an operation raises one of its errors and writes nothing before that, or it returns. -/
theorem exec_raises_or_returns (i : Instr) (s : State) :
    (∃ e ∈ possibleErrors i, exec i s = raise e s) ∨
    (∃ (x : Result) (u : State), exec i s = ret x u ∧ u.responses = s.responses) := by
  cases i with
  | crcInit | crcUpdate b | statusPack r | layoutSet map bits => exact .inr ⟨_, _, rfl, rfl⟩
  | txFrame kind p =>
    by_cases hlen : p.length ≤ 65535
    · by_cases hkind : 1 ≤ kind.toNat ∧ kind.toNat ≤ 5
      · exact .inr ⟨_, _, exec_txFrame_of_known hlen hkind s, rfl⟩
      · exact .inl ⟨.badKind, by simp [possibleErrors], exec_txFrame_of_unknown hlen hkind s⟩
    · exact .inl ⟨.payloadTooLong, by simp [possibleErrors], exec_txFrame_of_long (by omega) s⟩
  | statusUnpack p =>
    by_cases hp : p.length = 144
    · exact .inr ⟨_, _, exec_statusUnpack_of_length hp s, rfl⟩
    · exact .inl ⟨.malformedLength, by simp [possibleErrors], exec_statusUnpack_of_length_ne hp s⟩
  | layoutLoad p =>
    by_cases hp : p.length = 144
    · exact .inr ⟨_, _, exec_layoutLoad_of_length hp s, rfl⟩
    · exact .inl ⟨.malformedLength, by simp [possibleErrors], exec_layoutLoad_of_length_ne hp s⟩
  | dataPack ts v =>
    rcases layoutError_eq s with ⟨_, h⟩ | ⟨_, _, h⟩ | ⟨_, _, h⟩
    · exact .inl ⟨.missingContext, by simp [possibleErrors], exec_dataPack_of_error h ts v⟩
    · exact .inl ⟨.badLayout, by simp [possibleErrors], exec_dataPack_of_error h ts v⟩
    · exact .inr ⟨_, _, exec_dataPack_of_noError h ts v, rfl⟩
  | dataUnpack p =>
    rcases layoutError_eq s with ⟨_, h⟩ | ⟨_, _, h⟩ | ⟨_, _, h⟩
    · exact .inl ⟨.missingContext, by simp [possibleErrors], exec_dataUnpack_of_error h p⟩
    · exact .inl ⟨.badLayout, by simp [possibleErrors], exec_dataUnpack_of_error h p⟩
    · by_cases hp : p.length = dataLen s.layoutMap s.layoutBits
      · exact .inr ⟨_, _, exec_dataUnpack_of_length h hp, rfl⟩
      · exact .inl ⟨.malformedLength, by simp [possibleErrors], exec_dataUnpack_of_length_ne h hp⟩
  | rxByte b => exact .inr ⟨_, _, exec_rxByte b s, rxByte_responses _ _ _⟩
  | rxTick => exact .inr ⟨_, _, execRxTick_eq s, rxTick_responses _ _⟩
  | regRead r =>
    rcases execRegRead_cases r s with ⟨g, _, h⟩ | ⟨_, h⟩
    · exact .inr ⟨_, _, h, rfl⟩
    · exact .inl ⟨.badRegister, by simp [possibleErrors], h⟩

/-- An operation whose response is an error raised that error, and R253 lists it. -/
theorem exec_of_errResponse {i : Instr} {s t : State} {e : ErrCode} (h : exec i s = .next t)
    (hr : t.responses = s.responses ++ [.err e]) : e ∈ possibleErrors i ∧ t = s.respond (.err e) := by
  rcases exec_raises_or_returns i s with ⟨e', he', hraise⟩ | ⟨x, u, hret, hu⟩
  · obtain rfl := (raise_eq_next _ _ _).mp (hraise.symm.trans h)
    obtain rfl : e' = e := by simpa using hr
    exact ⟨he', rfl⟩
  · obtain rfl := (ret_eq_next _ _ _).mp (hret.symm.trans h)
    simp [hu] at hr

/-! ### Each listed error is raised -/

/-- Some operands and some state make the operation answer with the error. -/
def CanReturn (o : Opcode) (e : ErrCode) : Prop :=
  ∃ (j : Instr) (s t : State), j.opcode = o ∧ exec j s = .next t ∧ t.responses = s.responses ++ [.err e]

theorem canReturn_of_raise {j : Instr} {s : State} {e : ErrCode} {o : Opcode} (h : exec j s = raise e s)
    (ho : j.opcode = o) : CanReturn o e :=
  ⟨j, s, s.respond (.err e), ho, h, rfl⟩

/-- Reset with sensor 0 active and every width 0. -/
def zeroWidthLayout : State := State.reset.loadLayout 0x00000001 (Vector.replicate 32 0x00)

/-- Reset with a layout of no active sensor. -/
def emptyLayout : State := State.reset.loadLayout 0x00000000 (Vector.replicate 32 0x00)

theorem layoutError_reset : layoutError State.reset = some .missingContext :=
  layoutError_of_invalid rfl

theorem layoutError_zeroWidthLayout : layoutError zeroWidthLayout = some .badLayout :=
  layoutError_of_badWidths rfl (by decide)

theorem layoutError_emptyLayout : layoutError emptyLayout = none :=
  layoutError_of_widthsInRange rfl (by decide)

/-- R253: every error of the table can happen. -/
theorem canReturn_of_mem_possibleErrors {i : Instr} {e : ErrCode} (h : e ∈ possibleErrors i) :
    CanReturn i.opcode e := by
  cases i <;> simp only [possibleErrors, List.mem_cons, List.not_mem_nil, or_false] at h
  case txFrame =>
    rcases h with rfl | rfl
    · have hlong : 65535 < (List.replicate 65536 (0x00 : U8)).length := by
        rw [List.length_replicate]
        decide
      exact canReturn_of_raise (exec_txFrame_of_long (kind := 0x01) hlong State.reset) rfl
    · exact canReturn_of_raise (exec_txFrame_of_unknown (kind := 0x06) (s := []) (by decide) (by decide)
        State.reset) rfl
  case statusUnpack =>
    subst h
    exact canReturn_of_raise (exec_statusUnpack_of_length_ne (p := []) (by decide) State.reset) rfl
  case layoutLoad =>
    subst h
    exact canReturn_of_raise (exec_layoutLoad_of_length_ne (p := []) (by decide) State.reset) rfl
  case dataPack ts v =>
    rcases h with rfl | rfl
    · exact canReturn_of_raise (exec_dataPack_of_error layoutError_reset ts v) rfl
    · exact canReturn_of_raise (exec_dataPack_of_error layoutError_zeroWidthLayout ts v) rfl
  case dataUnpack p =>
    rcases h with rfl | rfl | rfl
    · exact canReturn_of_raise (exec_dataUnpack_of_error layoutError_reset p) rfl
    · exact canReturn_of_raise (exec_dataUnpack_of_error layoutError_zeroWidthLayout p) rfl
    · have hlen : ([] : List U8).length ≠ dataLen emptyLayout.layoutMap emptyLayout.layoutBits := by decide
      exact canReturn_of_raise (exec_dataUnpack_of_length_ne layoutError_emptyLayout hlen) rfl
  case regRead =>
    subst h
    exact canReturn_of_raise (exec_regRead_of_none (r := 0x0E) (by decide) State.reset) rfl

/-! ### The parser's two operations -/

/-- A tick writes the parser state, its count, the stall count and the count of aborts, and nothing
else (R215, R216). -/
theorem rxTick_frame (p : Params) (s : State) :
    (rxTick p s).1 = { s with
      rxState := (rxTick p s).1.rxState, rxCount := (rxTick p s).1.rxCount
      rxStallCnt := (rxTick p s).1.rxStallCnt, stallAborts := (rxTick p s).1.stallAborts } := by
  rcases rxTick_cases p s with ⟨_, h⟩ | ⟨_, _, h⟩ | ⟨_, _, h⟩
  · rw [h]
  · rw [h]
  · rw [h, stallAbort]

theorem rxTick_onlyRxChanges (p : Params) (s : State) : OnlyRxChanges s (rxTick p s).1 := by
  rw [rxTick_frame]
  rfl

theorem onlyRxChanges_respond (s : State) (r : Response) : OnlyRxChanges s (s.respond r) := rfl

/-! ### The step on a reset -/

theorem step_of_fetch_reset {s : State} {rest : List HostInput} (h : fetch s.port = .reset rest) :
    step s = .next (s.resetInput rest) := by
  simp only [step, h]

end Sys2Proof.Machine

namespace Sys2Proof

open Machine

/-- Settles O15: the operation raised the error, and `raise` adds its response to the state it found. -/
theorem errorsWriteNoState : Obligations.ErrorsWriteNoState := fun _ _ _ _ h hr =>
  (exec_of_errResponse h hr).2

/-- Settles O16: what is raised is listed, and each listed error is raised on a state of its own. -/
theorem operationsReturnOnlyTheirErrors : Obligations.OperationsReturnOnlyTheirErrors :=
  ⟨fun _ _ _ _ h hr => (exec_of_errResponse h hr).1, fun _ _ h => canReturn_of_mem_possibleErrors h⟩

/-- Settles O44: both operations return the parser's result, and its frame lemmas say what they keep. -/
theorem framingIsNeverAnError : Obligations.FramingIsNeverAnError := by
  refine ⟨fun b s => ?byte, fun s => ?tick⟩
  case byte =>
    refine ⟨_, (rxByte Config.params b s).2, exec_rxByte b s,
      (rxByte_onlyRxChanges _ b s).trans (onlyRxChanges_respond _ _), ?stall, by simp⟩
    rw [State.respond_rxStallCnt, rxByte_frame]
  case tick =>
    refine ⟨_, (rxTick Config.params s).2, execRxTick_eq s,
      (rxTick_onlyRxChanges _ s).trans (onlyRxChanges_respond _ _), ?frames, ?errors, ?pbuf, by simp⟩
    case frames => rw [State.respond_framesRx, rxTick_frame]
    case errors => rw [State.respond_crcErrors, rxTick_frame]
    case pbuf => rw [State.respond_rxPbuf, rxTick_frame]

/-- Settles O12: a request is answered, a reserved opcode refused with a response, a reset taken, and
without any of them the state stands. -/
theorem everyStepGoesOn : Obligations.EveryStepGoesOn := by
  intro s
  cases hfetch : fetch s.port with
  | request i rest =>
    obtain ⟨t, _, hexec, -⟩ := exec_answers i { s with port := rest }
    exact ⟨_, (step_of_fetch_request hfetch).trans hexec⟩
  | reserved op rest => exact ⟨_, step_of_fetch_reserved hfetch⟩
  | reset rest => exact ⟨_, step_of_fetch_reset hfetch⟩
  | idle => exact ⟨_, step_of_fetch_idle hfetch⟩

end Sys2Proof
end

section
/-! PROOF. Reset (spec/70_reset_and_hazards.md): the reset that stands behind an unfinished request is what
the block takes next from the port, and the bytes of that request are gone (R281). -/

namespace Sys2Proof.Machine

/-! ### The port with a reset behind an unfinished request -/

/-- The request bytes on the port end at the first reset. -/
theorem leadingBytes_reset (rest : List HostInput) : leadingBytes (.reset :: rest) = [] := rfl

theorem afterLeadingBytes_reset (rest : List HostInput) :
    afterLeadingBytes (.reset :: rest) = .reset :: rest := rfl

/-- R281: bytes the decoder takes for incomplete are dropped with the reset that follows them. -/
theorem fetch_reset_of_incomplete {bs : List U8} (h : decode bs = .incomplete) (rest : List HostInput) :
    fetch (asInput bs ++ .reset :: rest) = .reset rest := by
  have hbytes : leadingBytes (asInput bs ++ .reset :: rest) = bs := by
    rw [leadingBytes_asInput_append, leadingBytes_reset, List.append_nil]
  have hafter : afterLeadingBytes (asInput bs ++ .reset :: rest) = .reset :: rest := by
    rw [afterLeadingBytes_asInput_append, afterLeadingBytes_reset]
  simp only [fetch, hbytes, hafter, h]

end Sys2Proof.Machine

namespace Sys2Proof

open Machine

/-- Settles O10: the decoder takes the partial request for incomplete, so the reset behind it is fetched,
and the step is the reset input. -/
theorem resetDiscardsThePartialRequest : Obligations.ResetDiscardsThePartialRequest := by
  intro s part rest hpart hport
  have hwait : decode part = .incomplete := (decode_eq_incomplete_iff part).mpr hpart
  have hreset : fetch s.port = .reset rest := hport ▸ fetch_reset_of_incomplete hwait rest
  exact step_of_fetch_reset hreset

end Sys2Proof
end
